-- ==== Sys2Proof/Word.lean ====
section
/-! DEFINITION. The word types of the machine: 8-bit bytes, 16-bit words, and the three narrower opcode fields
(00_scope.md R6, R8, R9; 30_encoding.md R71, R73). Every value is unsigned and bit 0 is the least significant. -/

namespace Sys2Proof

/-- A byte: one V register, one memory byte, one timer, the immediate NN (R6, R20, R50). -/
abbrev Byte := BitVec 8

/-- A 16-bit word: an opcode, pc, I, one stack entry (R6, R22, R25, R26, R70). -/
abbrev Word := BitVec 16

/-- The 12-bit address field NNN (R71). -/
abbrev Addr := BitVec 12

/-- A register number, the 4-bit field X or Y (R20, R71). -/
abbrev Reg := BitVec 4

/-- The 4-bit immediate N (R71). -/
abbrev Nib := BitVec 4

/-- Register 15, VF, the machine's only flag (R21). -/
abbrev vf : Reg := 0xF#4

/-- Register 0, which BNNN reads whatever its fields (R113). -/
abbrev v0 : Reg := 0x0#4

/-- `zext_16(NNN)` (R9, R73). -/
abbrev zextAddr (nnn : Addr) : Word := nnn.setWidth 16

/-- `zext_16` of a byte (R9). -/
abbrev zextByte (b : Byte) : Word := b.setWidth 16

end Sys2Proof
end

