-- ==== Sys2Proof/Syntax.lean ====
section
/-! DEFINITION. The instructions: one constructor for each of the 34 rows of spec/opcode_table.json, in the order of
30_encoding.md R76. Each carries exactly the fields its format uses, already extracted (R75): FIXED nothing, ADDR NNN,
REG_IMM X and NN, REG_REG X and Y, REG_REG_N X, Y and N, REG_SUB X. The thirty-fifth variant of R75, `Unknown`, has no
row in the table; it is `Tagged.unknown` of WellFormed.lean. -/

namespace Sys2Proof

/-- The instruction set (R76). Any value of any field is legal as a field (R80), so the field's type is its whole check. -/
inductive Instr where
  /-- 00E0 `CLS`, R180. -/
  | cls
  /-- 00EE `RET`, R111. -/
  | ret
  /-- 1NNN `JP nnn`, R110. -/
  | jp (nnn : Addr)
  /-- 2NNN `CALL nnn`, R112. -/
  | call (nnn : Addr)
  /-- 3XNN `SE Vx, nn`, R114. -/
  | seImm (x : Reg) (nn : Byte)
  /-- 4XNN `SNE Vx, nn`, R115. -/
  | sneImm (x : Reg) (nn : Byte)
  /-- 5XY0 `SE Vx, Vy`, R116. -/
  | seReg (x y : Reg)
  /-- 6XNN `LD Vx, nn`, R130. -/
  | ldImm (x : Reg) (nn : Byte)
  /-- 7XNN `ADD Vx, nn`, R131. -/
  | addImm (x : Reg) (nn : Byte)
  /-- 8XY0 `LD Vx, Vy`, R132. -/
  | ldReg (x y : Reg)
  /-- 8XY1 `OR Vx, Vy`, R133. -/
  | or (x y : Reg)
  /-- 8XY2 `AND Vx, Vy`, R134. -/
  | and (x y : Reg)
  /-- 8XY3 `XOR Vx, Vy`, R135. -/
  | xor (x y : Reg)
  /-- 8XY4 `ADD Vx, Vy`, R136. -/
  | addReg (x y : Reg)
  /-- 8XY5 `SUB Vx, Vy`, R137. -/
  | sub (x y : Reg)
  /-- 8XY6 `SHR Vx, Vy`, R138. -/
  | shr (x y : Reg)
  /-- 8XY7 `SUBN Vx, Vy`, R139. -/
  | subn (x y : Reg)
  /-- 8XYE `SHL Vx, Vy`, R140. -/
  | shl (x y : Reg)
  /-- 9XY0 `SNE Vx, Vy`, R117. -/
  | sneReg (x y : Reg)
  /-- ANNN `LD I, nnn`, R160. -/
  | ldI (nnn : Addr)
  /-- BNNN `JP V0, nnn`, R113. -/
  | jpV0 (nnn : Addr)
  /-- CXNN `RND Vx, nn`, R141. -/
  | rnd (x : Reg) (nn : Byte)
  /-- DXYN `DRW Vx, Vy, n`, R181. -/
  | drw (x y : Reg) (n : Nib)
  /-- EX9E `SKP Vx`, R190. -/
  | skp (x : Reg)
  /-- EXA1 `SKNP Vx`, R191. -/
  | sknp (x : Reg)
  /-- FX07 `LD Vx, DT`, R200. -/
  | ldVxDt (x : Reg)
  /-- FX0A `LD Vx, K`, R192. -/
  | ldVxK (x : Reg)
  /-- FX15 `LD DT, Vx`, R201. -/
  | ldDtVx (x : Reg)
  /-- FX18 `LD ST, Vx`, R202. -/
  | ldStVx (x : Reg)
  /-- FX1E `ADD I, Vx`, R161. -/
  | addI (x : Reg)
  /-- FX29 `LD F, Vx`, R162. -/
  | ldF (x : Reg)
  /-- FX33 `LD B, Vx`, R163. -/
  | ldB (x : Reg)
  /-- FX55 `LD [I], Vx`, R164. -/
  | stRegs (x : Reg)
  /-- FX65 `LD Vx, [I]`, R165. -/
  | ldRegs (x : Reg)
  deriving DecidableEq, Repr

end Sys2Proof
end

