-- ==== Sys2Proof/WellFormed.lean ====
section
/-! DEFINITION. The decoder's result, and when it is well formed. An `Instr` has nothing left to check: every field has
exactly its encoding's width, and any value of any field is legal (30_encoding.md R80). What can be ill formed is a term
`Tagged.unknown raw` whose raw word is an instruction's word: `Unknown` stands for exactly the words of R77. -/

namespace Sys2Proof

/-- The tagged instruction (R75): one variant for each row of R76 (through `Instr`), and `Unknown` with the raw opcode. -/
inductive Tagged where
  | instr (i : Instr)
  | unknown (raw : Word)
  deriving DecidableEq, Repr

/-- The family F = op[15:12] of a word (R71). -/
def wordFamily (w : Word) : BitVec 4 := w.extractLsb' 12 4

/-- NN = op[7:0] (R71). -/
def wordNN (w : Word) : Byte := w.extractLsb' 0 8

/-- N = op[3:0] (R71). -/
def wordN (w : Word) : Nib := w.extractLsb' 0 4

/-- The sub-opcodes N of family 8 that are instructions: 0 to 7 and E (R76; R77 lists the others). -/
def aluSubOps : List Nib := [0x0, 0x1, 0x2, 0x3, 0x4, 0x5, 0x6, 0x7, 0xE]

/-- The sub-opcodes NN of family E that are instructions (R77). -/
def keySubOps : List Byte := [0x9E, 0xA1]

/-- The sub-opcodes NN of family F that are instructions (R77). -/
def miscSubOps : List Byte := [0x07, 0x0A, 0x15, 0x18, 0x1E, 0x29, 0x33, 0x55, 0x65]

/-- R77's list of the unknown words, family by family, independent of the decoder's table. -/
def isUnknownWord (w : Word) : Bool :=
  match wordFamily w with
  | 0x0#4 => !(w == 0x00E0#16 || w == 0x00EE#16)
  | 0x5#4 => !(wordN w == 0x0#4)
  | 0x8#4 => !(aluSubOps.contains (wordN w))
  | 0x9#4 => !(wordN w == 0x0#4)
  | 0xE#4 => !(keySubOps.contains (wordNN w))
  | 0xF#4 => !(miscSubOps.contains (wordNN w))
  | _ => false

/-- A tagged instruction is well formed unless it calls `Unknown` a word that is an instruction's (R77). -/
def Tagged.wf : Tagged → Bool
  | .instr _ => true
  | .unknown raw => isUnknownWord raw

end Sys2Proof
end

