-- ==== Sys2Proof/Decode.lean ====
section
/-! DEFINITION. The decoder and the encoder (30_encoding.md R70 to R80). The decoder is R76's table: "A word selects an
instruction when `op AND mask = match`", and a word that selects no row is `Unknown` (R74, R77). -/

namespace Sys2Proof

/-! ## Fields (R71) -/

/-- X = op[11:8]. -/
def fieldX (w : Word) : Reg := w.extractLsb' 8 4

/-- Y = op[7:4]. -/
def fieldY (w : Word) : Reg := w.extractLsb' 4 4

/-- N = op[3:0]. -/
def fieldN (w : Word) : Nib := w.extractLsb' 0 4

/-- NN = op[7:0]. -/
def fieldNN (w : Word) : Byte := w.extractLsb' 0 8

/-- NNN = op[11:0]. -/
def fieldNNN (w : Word) : Addr := w.extractLsb' 0 12

/-! ## The opcode map (R76) -/

/-- One row of R76: the pattern's name, `match`, `mask`, and the instruction its fields make. -/
structure Row where
  pattern : String
  code : Word
  mask : Word
  build : Word → Instr

/-- "a word w selects the row when `w AND mask = match`" (R76). -/
def Row.selects (r : Row) (w : Word) : Bool := w &&& r.mask == r.code

/-- Rows 1 and 2, format FIXED: all sixteen bits are compared (R72). -/
def rowsFixed : List Row := [
  ⟨"00E0", 0x00E0, 0xFFFF, fun _ => .cls⟩,
  ⟨"00EE", 0x00EE, 0xFFFF, fun _ => .ret⟩]

/-- The rows of format ADDR (R72). -/
def rowsAddr : List Row := [
  ⟨"1NNN", 0x1000, 0xF000, fun w => .jp (fieldNNN w)⟩,
  ⟨"2NNN", 0x2000, 0xF000, fun w => .call (fieldNNN w)⟩,
  ⟨"ANNN", 0xA000, 0xF000, fun w => .ldI (fieldNNN w)⟩,
  ⟨"BNNN", 0xB000, 0xF000, fun w => .jpV0 (fieldNNN w)⟩]

/-- The rows of format REG_IMM (R72). -/
def rowsRegImm : List Row := [
  ⟨"3XNN", 0x3000, 0xF000, fun w => .seImm (fieldX w) (fieldNN w)⟩,
  ⟨"4XNN", 0x4000, 0xF000, fun w => .sneImm (fieldX w) (fieldNN w)⟩,
  ⟨"6XNN", 0x6000, 0xF000, fun w => .ldImm (fieldX w) (fieldNN w)⟩,
  ⟨"7XNN", 0x7000, 0xF000, fun w => .addImm (fieldX w) (fieldNN w)⟩,
  ⟨"CXNN", 0xC000, 0xF000, fun w => .rnd (fieldX w) (fieldNN w)⟩]

/-- The rows of format REG_REG (R72). -/
def rowsRegReg : List Row := [
  ⟨"5XY0", 0x5000, 0xF00F, fun w => .seReg (fieldX w) (fieldY w)⟩,
  ⟨"8XY0", 0x8000, 0xF00F, fun w => .ldReg (fieldX w) (fieldY w)⟩,
  ⟨"8XY1", 0x8001, 0xF00F, fun w => .or (fieldX w) (fieldY w)⟩,
  ⟨"8XY2", 0x8002, 0xF00F, fun w => .and (fieldX w) (fieldY w)⟩,
  ⟨"8XY3", 0x8003, 0xF00F, fun w => .xor (fieldX w) (fieldY w)⟩,
  ⟨"8XY4", 0x8004, 0xF00F, fun w => .addReg (fieldX w) (fieldY w)⟩,
  ⟨"8XY5", 0x8005, 0xF00F, fun w => .sub (fieldX w) (fieldY w)⟩,
  ⟨"8XY6", 0x8006, 0xF00F, fun w => .shr (fieldX w) (fieldY w)⟩,
  ⟨"8XY7", 0x8007, 0xF00F, fun w => .subn (fieldX w) (fieldY w)⟩,
  ⟨"8XYE", 0x800E, 0xF00F, fun w => .shl (fieldX w) (fieldY w)⟩,
  ⟨"9XY0", 0x9000, 0xF00F, fun w => .sneReg (fieldX w) (fieldY w)⟩]

/-- The row of format REG_REG_N (R72). -/
def rowsRegRegN : List Row := [
  ⟨"DXYN", 0xD000, 0xF000, fun w => .drw (fieldX w) (fieldY w) (fieldN w)⟩]

/-- The rows of format REG_SUB (R72). -/
def rowsRegSub : List Row := [
  ⟨"EX9E", 0xE09E, 0xF0FF, fun w => .skp (fieldX w)⟩,
  ⟨"EXA1", 0xE0A1, 0xF0FF, fun w => .sknp (fieldX w)⟩,
  ⟨"FX07", 0xF007, 0xF0FF, fun w => .ldVxDt (fieldX w)⟩,
  ⟨"FX0A", 0xF00A, 0xF0FF, fun w => .ldVxK (fieldX w)⟩,
  ⟨"FX15", 0xF015, 0xF0FF, fun w => .ldDtVx (fieldX w)⟩,
  ⟨"FX18", 0xF018, 0xF0FF, fun w => .ldStVx (fieldX w)⟩,
  ⟨"FX1E", 0xF01E, 0xF0FF, fun w => .addI (fieldX w)⟩,
  ⟨"FX29", 0xF029, 0xF0FF, fun w => .ldF (fieldX w)⟩,
  ⟨"FX33", 0xF033, 0xF0FF, fun w => .ldB (fieldX w)⟩,
  ⟨"FX55", 0xF055, 0xF0FF, fun w => .stRegs (fieldX w)⟩,
  ⟨"FX65", 0xF065, 0xF0FF, fun w => .ldRegs (fieldX w)⟩]

/-- The 34 rows of R76, format by format: they are pairwise disjoint, so their order does not matter (R74). -/
def opcodeRows : List Row :=
  rowsFixed ++ rowsAddr ++ rowsRegImm ++ rowsRegReg ++ rowsRegRegN ++ rowsRegSub

/-- Decode: "Pure function: 16-bit opcode → tagged instruction", total on all 65536 words (R74); a word that selects no
row is `Unknown`, by name and with the raw word (R77, R78). -/
def decode (w : Word) : Tagged :=
  match opcodeRows.find? (fun r => r.selects w) with
  | some r => .instr (r.build w)
  | none => .unknown w

/-! ## Bytes (R51, R70) -/

/-- Why a string of bytes is no opcode: an opcode is two bytes (R70). -/
inductive DecodeReject where
  | truncated
  deriving DecidableEq, Repr

/-- The big-endian word of two bytes: the byte at the lower address is op[15:8] (R51). -/
def wordOfBytes (hi lo : Byte) : Word := hi ++ lo

/-- The two bytes of a word in memory order (R51). -/
def bytesOfWord (w : Word) : List Byte := [w.extractLsb' 8 8, w.extractLsb' 0 8]

/-- Decode the first opcode of a string of bytes and give back the rest; fewer than two bytes are rejected by name. -/
def decodeBytes : List Byte → Except DecodeReject (Tagged × List Byte)
  | hi :: lo :: rest => .ok (decode (wordOfBytes hi lo), rest)
  | _ => .error .truncated

/-- The instruction the decoder reads from the bytes of the word `w` of `nbits` bits, laid out big-endian (R51). -/
def decodeTableWord (nbits w : Nat) : Option Instr :=
  match decodeBytes (bytesOfWord (BitVec.ofNat 16 (w % 2 ^ nbits))) with
  | .ok (.instr i, _) => some i
  | .ok (.unknown _, _) => none
  | .error _ => none

/-! ## The encoder (R72, R81: "Operands are assembled into the fields of rule R71 unchanged") -/

/-- Format ADDR: F ‖ NNN. -/
def wordAddr (f : BitVec 4) (nnn : Addr) : Word := f ++ nnn

/-- Format REG_IMM, and REG_SUB with its sub-opcode as NN: F ‖ X ‖ NN. -/
def wordRegByte (f : BitVec 4) (x : Reg) (nn : Byte) : Word := f ++ (x ++ nn : BitVec 12)

/-- Format REG_REG_N, and REG_REG with its sub-opcode as N: F ‖ X ‖ Y ‖ N. -/
def wordRegReg (f : BitVec 4) (x y : Reg) (n : Nib) : Word := f ++ (x ++ (y ++ n : BitVec 8) : BitVec 12)

/-- The word of an instruction, written from R72's formats and R76's patterns. -/
def encode : Instr → Word
  | .cls => 0x00E0#16
  | .ret => 0x00EE#16
  | .jp nnn => wordAddr 0x1 nnn
  | .call nnn => wordAddr 0x2 nnn
  | .seImm x nn => wordRegByte 0x3 x nn
  | .sneImm x nn => wordRegByte 0x4 x nn
  | .seReg x y => wordRegReg 0x5 x y 0x0
  | .ldImm x nn => wordRegByte 0x6 x nn
  | .addImm x nn => wordRegByte 0x7 x nn
  | .ldReg x y => wordRegReg 0x8 x y 0x0
  | .or x y => wordRegReg 0x8 x y 0x1
  | .and x y => wordRegReg 0x8 x y 0x2
  | .xor x y => wordRegReg 0x8 x y 0x3
  | .addReg x y => wordRegReg 0x8 x y 0x4
  | .sub x y => wordRegReg 0x8 x y 0x5
  | .shr x y => wordRegReg 0x8 x y 0x6
  | .subn x y => wordRegReg 0x8 x y 0x7
  | .shl x y => wordRegReg 0x8 x y 0xE
  | .sneReg x y => wordRegReg 0x9 x y 0x0
  | .ldI nnn => wordAddr 0xA nnn
  | .jpV0 nnn => wordAddr 0xB nnn
  | .rnd x nn => wordRegByte 0xC x nn
  | .drw x y n => wordRegReg 0xD x y n
  | .skp x => wordRegByte 0xE x 0x9E
  | .sknp x => wordRegByte 0xE x 0xA1
  | .ldVxDt x => wordRegByte 0xF x 0x07
  | .ldVxK x => wordRegByte 0xF x 0x0A
  | .ldDtVx x => wordRegByte 0xF x 0x15
  | .ldStVx x => wordRegByte 0xF x 0x18
  | .addI x => wordRegByte 0xF x 0x1E
  | .ldF x => wordRegByte 0xF x 0x29
  | .ldB x => wordRegByte 0xF x 0x33
  | .stRegs x => wordRegByte 0xF x 0x55
  | .ldRegs x => wordRegByte 0xF x 0x65

/-- The word of a tagged instruction; an `Unknown` carries its own (R75). -/
def encodeTagged : Tagged → Word
  | .instr i => encode i
  | .unknown raw => raw

end Sys2Proof
end

