-- ==== Sys2Proof/Config.lean ====
section
/-! DEFINITION. The configuration of the machine (00_scope.md R7, 10_state.md R38): the parameter SHIFT_SOURCE, the type of
the parameter FONT, and the free value `rand_byte`. FONT is an argument of `State.resetWith`, `resetOp`, `applyOp` and
`runOps`; its default is in Machine/Font.lean. IPF belongs to the host's schedule (R268) and is the number of random bytes
handed to `referenceFrame` in Machine/Transactions.lean. -/

namespace Sys2Proof

/-- The two values of SHIFT_SOURCE: which register 8XY6 and 8XYE shift (R7, R138, R140). -/
inductive ShiftSource where
  | vx
  | vy
  deriving DecidableEq, Repr

/-- SHIFT_SOURCE of this hardware: "`VX` is the source's documented behaviour and is normative for this hardware" (R7).
Both bodies are modelled; the shared shift operations of Operands.lean take the parameter. Log 6. -/
def Config.shiftSource : ShiftSource := .vx

/-- A value of the parameter FONT, 80 bytes (R7): the bytes copied to memory 0x000 to 0x04F at reset (R260). Log 5. -/
abbrev FontTable := Vector Byte 80

/-- The `rand_byte` of the n-th step for which the host has supplied none: a free value (R141, R239, decision D20).
It has no body, so no proof can lean on a value of it or on a relation between two draws. Log 3. -/
opaque Config.randByte : Nat → Byte

end Sys2Proof
end

