-- ==== Sys2Proof/Machine/State.lean ====
section
/-! DEFINITION. The state of the machine as plain data (10_state.md), why a step may stop (60_exceptions.md R221), the result
of a completed step (40_step_cycle.md R96), and the state after reset (70_reset_and_hazards.md R260). -/

namespace Sys2Proof.Machine

/-- Fault causes with the recorded info, complete (R221). A step that meets one changes nothing (R222), so the host's
`Outcome.fault` carries no state: the machine stays in the state before the step. Each is safe: where the original software
would go on in an undefined way, the machine stops (92_eei_decisions.md, column *errs*). -/
inductive Fault where
  /-- Raised by the fetch of any step with pc above 0xFFE; info: pc (R91, D5). Safe. -/
  | fetchOutOfRange (pc : Word)
  /-- Raised by 2NNN at sp = 16; info: pc, the address of the 2NNN (R112, D3). Safe. -/
  | stackOverflow (pc : Word)
  /-- Raised by 00EE at sp = 0; info: pc, the address of the 00EE (R111, D4). Safe. -/
  | stackUnderflow (pc : Word)
  /-- Raised by DXYN with N above 0, FX33, FX55 and FX65 when the highest address is above 0xFFF; info: that address as
  16 bits (R55, D8). Safe. -/
  | memoryOutOfRange (addr : Word)
  /-- Raised by EX9E and EXA1 when VX is above 15; info: VX, zero-extended (R190, R191, D10). Safe. -/
  | keyIndexOutOfRange (vx : Word)
  deriving DecidableEq, Repr

/-- Why the model gives no answer. No arm of `exec` raises it: every instruction has its meaning. -/
inductive Refusal where
  /-- An arm of `exec` whose instruction has no meaning yet (there is none). Safe: the run stops. -/
  | notModelled (mnemonic : String)
  deriving DecidableEq, Repr

/-- `Status` of a completed step (R96, R97). Its fourth value, `Fault(cause, info)`, belongs to a step that changes nothing; it
is the host's `Outcome.fault`, and `stepOp` of Machine/Transactions.lean puts the two together again. -/
inductive Status where
  /-- An instruction completed. -/
  | executed
  /-- FX0A found no key: nothing changed, pc unchanged (R192). -/
  | noProgress
  /-- `Unknown` executed: reported with its raw word, pc advanced by 2 (R210, R223). -/
  | unknownOpcode (raw : Word)
  deriving DecidableEq, Repr

/-- `StepResult` of a completed step (R96). -/
structure StepResult where
  /-- True exactly when this step executed 00E0 or DXYN to completion. -/
  displayChanged : Bool
  status : Status
  deriving DecidableEq, Repr

/-- Memory (R30, R50) as the list of the bytes that differ from the reset contents, addresses strictly rising.
The reset contents, the operations and the canonical form are in Machine/Memory.lean. -/
abbrev Memory := List Host.Cell

/-- The register file V0..VF (R20). -/
abbrev Regs := Vector Byte 16

/-- The display buffer, 2048 × 1 bit (R31, R35). Bit n is cell number n of R33's numbering, x + 64*y. Log 10. -/
abbrev Display := BitVec 2048

/-- Everything the spec gives the machine (10_state.md), and the three fields of the model's own. -/
structure State where
  /-- V0..VF (R20); `v[15]` is VF (R21). -/
  v : Regs
  /-- The index register I, 16 bits, never masked on use (R25). -/
  i : Word
  /-- The program counter (R22). -/
  pc : Word
  /-- The index of the next free stack entry, 0..16 (R26). -/
  sp : Fin 17
  /-- `stack[0..15]` (R26), a store of its own (R35). -/
  stack : Vector Word 16
  /-- The delay timer DT (R27). -/
  dt : Byte
  /-- The sound timer ST (R28). -/
  st : Byte
  /-- The key flags, true when the key is pressed (R29). -/
  key : Vector Bool 16
  /-- The 4096 bytes of memory (R30). -/
  mem : Memory
  /-- The display buffer (R31). -/
  disp : Display
  /-- The sticky flag `display_changed` (R32). -/
  displayChanged : Bool
  /-- THE MODEL'S OWN: what the latest completed step returned (R96). No rule reads it. Log 1. -/
  result : StepResult
  /-- THE MODEL'S OWN: the `rand_byte` inputs the host has handed over for the coming steps, the next step's first
  (R239). Log 3. -/
  randSupply : List Byte
  /-- THE MODEL'S OWN: how many `rand_byte` inputs have been used up; selects the free value `Config.randByte`. Log 3. -/
  draws : Nat
  deriving DecidableEq, Repr

/-- The state after `reset` (R260, and the reset values of R20, R22, R25 to R32) under the default FONT; under any other it is
`State.resetWith` of Machine/HostOps.lean. Memory lists nothing: an unlisted address reads as the reset contents, the
default FONT at 0x000 to 0x04F and 0 from 0x050 up (R30, log 5). The last three fields are the
model's own (log 1, log 3). -/
def State.reset : State where
  v := Vector.replicate 16 0
  i := 0
  pc := 0x200
  sp := 0
  stack := Vector.replicate 16 0
  dt := 0
  st := 0
  key := Vector.replicate 16 false
  mem := []
  disp := 0
  displayChanged := false
  result := ⟨false, .executed⟩
  randSupply := []
  draws := 0

end Sys2Proof.Machine
end

