-- ==== Sys2Proof/Machine/Font.lean ====
section
/-! DEFINITION. The default of the parameter FONT (00_scope.md R7): the table of 70_reset_and_hazards.md R261, which the spec
took from general knowledge (93_implementation_defined.md K1). No rule of the instruction set depends on its values. Log 5. -/

namespace Sys2Proof.Machine

/-- Glyphs 0 to 7, five bytes each, top row first (R261). -/
def fontGlyphs0to7 : List Byte := [
  0xF0, 0x90, 0x90, 0x90, 0xF0,
  0x20, 0x60, 0x20, 0x20, 0x70,
  0xF0, 0x10, 0xF0, 0x80, 0xF0,
  0xF0, 0x10, 0xF0, 0x10, 0xF0,
  0x90, 0x90, 0xF0, 0x10, 0x10,
  0xF0, 0x80, 0xF0, 0x10, 0xF0,
  0xF0, 0x80, 0xF0, 0x90, 0xF0,
  0xF0, 0x10, 0x20, 0x40, 0x40]

/-- Glyphs 8 to F (R261). -/
def fontGlyphs8toF : List Byte := [
  0xF0, 0x90, 0xF0, 0x90, 0xF0,
  0xF0, 0x90, 0xF0, 0x10, 0xF0,
  0xF0, 0x90, 0xF0, 0x90, 0x90,
  0xE0, 0x90, 0xE0, 0x90, 0xE0,
  0xF0, 0x80, 0x80, 0x80, 0xF0,
  0xE0, 0x90, 0x90, 0x90, 0xE0,
  0xF0, 0x80, 0xF0, 0x80, 0xF0,
  0xF0, 0x80, 0xF0, 0x80, 0x80]

/-- The bytes of the default table: glyph d is bytes 5d to 5d+4 (R261). -/
def defaultFontBytes : List Byte := fontGlyphs0to7 ++ fontGlyphs8toF

/-- The default of FONT (R7, R261). -/
def defaultFont : FontTable := ⟨defaultFontBytes.toArray, rfl⟩

end Sys2Proof.Machine
end

