-- ==== Sys2Proof/Machine/Memory.lean ====
section
/-! DEFINITION. The memory array and its two primitives `MemRead` and `MemWrite` (00_scope.md R10; 20_memory.md R50, R52,
R54, R58). A memory is the list of its bytes that differ from the reset contents, in one canonical form, so that equal
memories are equal lists. Byte order is decided in one place, `Memory.readWord` (R51). -/

namespace Sys2Proof.Machine

/-- The number of bytes of memory, 0x1000 (R50). -/
def memorySize : Nat := 0x1000

/-- The highest address, 0xFFF (R50). -/
def lastAddress : Nat := 0xFFF

/-- What an unlisted address reads as: the reset contents under the default FONT, its table from 0x000 and 0 elsewhere (R30,
R58, R260). With another FONT, the bytes that differ from these are listed (`fontMemory`). Log 5. -/
def resetByte (a : Nat) : Byte := defaultFontBytes.getD a 0

/-- The byte listed for an address, if any. -/
def Memory.lookup : Memory → Nat → Option Byte
  | [], _ => none
  | (k, b) :: rest, a => if k = a then some b else Memory.lookup rest a

/-- `MemRead(addr, 1)` (R10). The rules that call it check the range first (R55). -/
def Memory.read (m : Memory) (a : Nat) : Byte := (Memory.lookup m a).getD (resetByte a)

/-- Put a listed byte at its place in the rising order. -/
def Memory.insert (a : Nat) (b : Byte) : Memory → Memory
  | [] => [(a, b)]
  | (k, c) :: rest =>
    if a < k then (a, b) :: (k, c) :: rest
    else if a = k then (a, b) :: rest
    else (k, c) :: Memory.insert a b rest

/-- Take an address off the list. -/
def Memory.erase (a : Nat) (m : Memory) : Memory := m.filter (fun c => c.1 != a)

/-- `MemWrite(addr, 1, v)` (R10). Writing what an unlisted address reads as takes the entry off the list. -/
def Memory.write (m : Memory) (a : Nat) (b : Byte) : Memory :=
  if b = resetByte a then Memory.erase a m else Memory.insert a b m

/-- A sequence of one-byte writes at ascending addresses (R52). -/
def Memory.writeBytes (m : Memory) (a : Nat) : List Byte → Memory
  | [] => m
  | b :: rest => Memory.writeBytes (Memory.write m a b) (a + 1) rest

/-- The memory after reset (R30, R260): `FONT[0..79]` at 0x000 to 0x04F and 0 from 0x050 up. -/
def fontMemory (font : FontTable) : Memory := Memory.writeBytes [] 0 font.toList

/-- `MemRead(addr, 2)`, instruction fetch only: big-endian (R10, R51). -/
def Memory.readWord (m : Memory) (a : Nat) : Word := Memory.read m a ++ Memory.read m (a + 1)

/-- The canonical form: addresses below 0x1000 and strictly rising, and no entry equal to what an unlisted address
reads as. -/
def Memory.wf : Memory → Bool
  | [] => true
  | (a, b) :: rest =>
    decide (a < memorySize) && (b != resetByte a) && rest.all (fun c => decide (a < c.1)) && Memory.wf rest

end Sys2Proof.Machine
end

