-- ==== Sys2Proof/Machine/Flags.lean ====
section
/-! DEFINITION. Every flag computation of the machine (10_state.md R21): the seven values written to VF, on unsigned
integers throughout (42_load_alu.md R142, 00_scope.md R9). The eighth place, the collision of DXYN, is accumulated while
drawing in Machine/Display.lean and written here as a byte. -/

namespace Sys2Proof.Machine

/-- A flag as it stands in VF: 1 or 0 (R21). -/
def flagByte (f : Bool) : Byte := if f then 1 else 0

/-- 8XY4: "1 if VX+VY > 255 else 0" (R136). -/
def carryFlag (a b : Byte) : Bool := decide (a.toNat + b.toNat > 255)

/-- 8XY5, and 8XY7 with its operands exchanged: 1 when no borrow occurs, `a >= b` unsigned (R137, R139). -/
def noBorrowFlag (a b : Byte) : Bool := decide (a.toNat ≥ b.toNat)

/-- 8XY6: bit 0 of the operand before the shift (R138). -/
def shiftedOutRight (s : Byte) : Bool := s.getLsbD 0

/-- 8XYE: bit 7 of the operand before the shift (R140). -/
def shiftedOutLeft (s : Byte) : Bool := s.getLsbD 7

/-- FX1E: "1 if I+VX > 0xFFF else 0" (R161). -/
def indexOverflowFlag (i : Word) (b : Byte) : Bool := decide (i.toNat + b.toNat > 0xFFF)

end Sys2Proof.Machine
end

