-- ==== Sys2Proof/Machine/Ops.lean ====
section
/-! DEFINITION. The operations every meaning is written over: reads and writes of the registers (00_scope.md R10), the pc
policy (40_step_cycle.md R93), the flag and result writes in their order (R95), the stack (10_state.md R26), how a step
completes (R96, R97) and how it faults (60_exceptions.md R222). There is no trap entry and no return from a trap
(R226, R227): `raise` is all there is to taking an exception. -/

namespace Sys2Proof.Machine

/-- What a meaning answers. -/
abbrev Result := Host.Outcome State Fault Refusal

/-! ## Registers -/

/-- `V[x]` (R10, R20). -/
def State.reg (s : State) (x : Reg) : Byte := s.v[x.toNat]'x.isLt

/-- `V[x] <- b` (R10, R20). No register is hardwired. -/
def State.setReg (s : State) (x : Reg) (b : Byte) : State := { s with v := s.v.set x.toNat b x.isLt }

/-- `I <- w` (R10, R25). -/
def State.setI (s : State) (w : Word) : State := { s with i := w }

/-- `pc <- w` (R10, R22). -/
def State.setPc (s : State) (w : Word) : State := { s with pc := w }

/-- `DT <- b` (R10, R27). -/
def State.setDt (s : State) (b : Byte) : State := { s with dt := b }

/-- `ST <- b` (R10, R28). -/
def State.setSt (s : State) (b : Byte) : State := { s with st := b }

/-- The memory after an instruction's writes. -/
def State.setMem (s : State) (m : Memory) : State := { s with mem := m }

/-- The register file after FX65's writes. -/
def State.setRegs (s : State) (v : Regs) : State := { s with v := v }

/-- The display after a mutator, with the sticky flag set: "set by either mutator" (R32, R180, R181). -/
def State.setDisplay (s : State) (d : Display) : State := { s with disp := d, displayChanged := true }

/-- The result that the step returns (R96). -/
def State.setResult (s : State) (r : StepResult) : State := { s with result := r }

/-! ## The program counter (R93, R23) -/

/-- `pc <- pc + 2`, modulo 65536 (R23). -/
def State.advance (s : State) : State := s.setPc (s.pc + 2)

/-- A conditional skip: pc + 4 when the condition holds, else pc + 2 (R23). -/
def State.skipIf (s : State) (c : Bool) : State := s.setPc (if c then s.pc + 4 else s.pc + 2)

/-! ## Flags (R95) -/

/-- `V[15] <- flag`. -/
def State.setFlag (s : State) (f : Bool) : State := s.setReg vf (flagByte f)

/-- The two writes of a flag-writing ALU instruction in the order of R95: the flag to VF first, the result to VX last, so
that with X = F the result remains (R143). Log 7. -/
def State.setFlagThenResult (s : State) (f : Bool) (x : Reg) (r : Byte) : State := (s.setFlag f).setReg x r

/-! ## The stack (R26) -/

/-- `stack[sp] <- w; sp <- sp + 1`, for a stack that is not full. -/
def State.push (s : State) (w : Word) (h : s.sp.val < 16) : State :=
  { s with stack := s.stack.set s.sp.val w h, sp := ⟨s.sp.val + 1, by omega⟩ }

/-- `stack[sp - 1]`, for a stack that is not empty. -/
def State.top (s : State) (h : 0 < s.sp.val) : Word := s.stack[s.sp.val - 1]'(by have := s.sp.isLt; omega)

/-- `sp <- sp - 1`: the entry keeps its value (R26). -/
def State.pop (s : State) : State := { s with sp := ⟨s.sp.val - 1, by have := s.sp.isLt; omega⟩ }

/-! ## How a step ends (R96, R97, R222) -/

/-- An instruction completed: status `Executed`, `display_changed = false`. -/
def complete (s : State) : Result := .next (s.setResult ⟨false, .executed⟩)

/-- 00E0 or DXYN completed: status `Executed`, `display_changed = true`. -/
def completeDisplay (s : State) : Result := .next (s.setResult ⟨true, .executed⟩)

/-- FX0A found no key: status `NoProgress`, no state changes (R192). -/
def noProgress (s : State) : Result := .next (s.setResult ⟨false, .noProgress⟩)

/-- `emit UnknownOpcode(raw)` and go on (R210, R223). -/
def completeUnknown (raw : Word) (s : State) : Result := .next (s.setResult ⟨false, .unknownOpcode raw⟩)

/-- `raise F(info)`: the step ends and no state has changed (R10, R222). Nothing is saved, no mode changes and control goes
nowhere (R226). -/
def raise (f : Fault) : Result := .fault f

/-! ## The random input (R141, R239) -/

/-- `RandByte()`: the `rand_byte` input of this step, the host's if it has supplied one, else a free value. Log 3. -/
def State.randByte (s : State) : Byte :=
  match s.randSupply with
  | b :: _ => b
  | [] => Config.randByte s.draws

/-- Each step is given one `rand_byte`, used or not (R90, R239): the next step has the next one. -/
def State.nextDraw (s : State) : State := { s with randSupply := s.randSupply.tail, draws := s.draws + 1 }

end Sys2Proof.Machine
end

