-- ==== Sys2Proof/Machine/Operands.lean ====
section
/-! DEFINITION. The operand forms (30_encoding.md R73; 43_index_memory.md): the shift operand that SHIFT_SOURCE selects, the
addresses I + offset and their range check (20_memory.md R54, R55), the register counts of FX55 and FX65, the decimal
digits of FX33, the key index of EX9E and EXA1, and the least pressed key of FX0A. -/

namespace Sys2Proof.Machine

/-! ## Shift source (R138, R140) -/

/-- The operand 8XY6 and 8XYE shift: VX, or VY, as SHIFT_SOURCE says. Log 6. -/
def State.shiftOperand (s : State) (src : ShiftSource) (x y : Reg) : Byte :=
  match src with
  | .vx => s.reg x
  | .vy => s.reg y

/-! ## Memory operands (R54, R55) -/

/-- The range check of a data access, on the whole range and before any effect: `last` is the highest address the
instruction would access (R55). The info is that address as 16 bits (R96, R221; log 8). -/
def checkRange (last : Nat) (body : Result) : Result :=
  if last > lastAddress then raise (.memoryOutOfRange (BitVec.ofNat 16 last)) else body

/-- The highest address FX33 writes, I + 2 (R163). -/
def lastDigitAddress (s : State) : Nat := s.i.toNat + 2

/-- The highest address FX55 writes and FX65 reads, I + X (R164, R165). -/
def lastRegAddress (s : State) (x : Reg) : Nat := s.i.toNat + x.toNat

/-- The highest address DXYN reads when N is above 0, I + N - 1 (R181). -/
def lastRowAddress (s : State) (n : Nib) : Nat := s.i.toNat + n.toNat - 1

/-- V0 to VX in ascending order, X + 1 bytes (R164). -/
def State.regsUpTo (s : State) (x : Reg) : List Byte := s.v.toList.take (x.toNat + 1)

/-- `for i in 0 .. n-1 ascending: V[i] <- MemRead(base + i, 1)` (R165). -/
def loadRegs (m : Memory) (base : Nat) : Nat → Regs → Regs
  | 0, v => v
  | n + 1, v => (loadRegs m base n v).setIfInBounds n (Memory.read m (base + n))

/-- I after FX55 and FX65: I + X + 1, not reduced modulo 0x1000 (R25, R164, R165). -/
def State.indexPast (s : State) (x : Reg) : Word := s.i + BitVec.ofNat 16 (x.toNat + 1)

/-- The decimal digits of a byte, hundreds first (R163). -/
def decimalDigits (b : Byte) : List Byte :=
  [BitVec.ofNat 8 (b.toNat / 100), BitVec.ofNat 8 (b.toNat / 10 % 10), BitVec.ofNat 8 (b.toNat % 10)]

/-- The address of glyph `b`: VX * 5, the whole byte multiplied (R162). -/
def glyphAddress (b : Byte) : Word := zextByte b * 5

/-- I after FX1E: the integer sum modulo 0x1000 (R161). -/
def indexSum (i : Word) (b : Byte) : Word := BitVec.ofNat 16 ((i.toNat + b.toNat) % 0x1000)

/-! ## Keys (R190 to R192) -/

/-- The key test of EX9E and EXA1: the key whose index is the value of VX; no key has an index above 15 (R190). -/
def withKey (s : State) (b : Byte) (body : Bool → Result) : Result :=
  if h : b.toNat < 16 then body (s.key[b.toNat]'h) else raise (.keyIndexOutOfRange (zextByte b))

/-- The least k with `key[k] = true`, if any key is pressed (R192). -/
def leastKey (s : State) : Option (Fin 16) := (List.finRange 16).find? (fun k => s.key[k.val]'k.isLt)

end Sys2Proof.Machine
end

