-- ==== Sys2Proof/Machine/ControlFlow.lean ====
section
/-! DEFINITION. Control transfer (41_control_flow.md): 1NNN, 00EE, 2NNN, BNNN, 3XNN, 4XNN, 5XY0, 9XY0. On the right-hand side pc
is the address of the instruction itself (R93). A target is not checked when the branch executes (R24). -/

namespace Sys2Proof.Machine

/-- 1NNN: "pc = NNN (no +2)" (R110). -/
def execJp (nnn : Addr) (s : State) : Result := complete (s.setPc (zextAddr nnn))

/-- 00EE: pc is the top entry plus 2, the entry keeps its value (R111). -/
def execRet (s : State) : Result :=
  if h : 0 < s.sp.val then complete (s.pop.setPc (s.top h + 2)) else raise (.stackUnderflow s.pc)

/-- 2NNN: the address of this 2NNN is pushed, "push uses pc before any +2 for this instruction" (R112). -/
def execCall (nnn : Addr) (s : State) : Result :=
  if h : s.sp.val < 16 then complete ((s.push s.pc h).setPc (zextAddr nnn)) else raise (.stackOverflow s.pc)

/-- BNNN: NNN + V0 modulo 65536, not reduced further (R113). -/
def execJpV0 (nnn : Addr) (s : State) : Result := complete (s.setPc (zextAddr nnn + zextByte (s.reg v0)))

/-- 3XNN: skip if VX = NN (R114). -/
def execSeImm (x : Reg) (nn : Byte) (s : State) : Result := complete (s.skipIf (s.reg x == nn))

/-- 4XNN: skip if VX differs from NN (R115). -/
def execSneImm (x : Reg) (nn : Byte) (s : State) : Result := complete (s.skipIf (s.reg x != nn))

/-- 5XY0: skip if VX = VY (R116). -/
def execSeReg (x y : Reg) (s : State) : Result := complete (s.skipIf (s.reg x == s.reg y))

/-- 9XY0: skip if VX differs from VY (R117). -/
def execSneReg (x y : Reg) (s : State) : Result := complete (s.skipIf (s.reg x != s.reg y))

end Sys2Proof.Machine
end

