-- ==== Sys2Proof/Machine/Display.lean ====
section
/-! DEFINITION. The display buffer and its two mutators, 00E0 and DXYN (44_display.md; 10_state.md R31 to R33). -/

namespace Sys2Proof.Machine

/-- The number of the cell in column x (0..63) and row y (0..31): x + 64*y (R33). -/
def cellNumber (x y : Nat) : Nat := x + 64 * y

/-- `disp[x, y]` (R10, R33). -/
def Display.cell (d : Display) (x y : Nat) : Bool := d.getLsbD (cellNumber x y)

/-- `disp[x, y] <- disp[x, y] XOR 1` (R181). -/
def Display.flip (d : Display) (x y : Nat) : Display := d ^^^ BitVec.twoPow 2048 (cellNumber x y)

/-- A drawing under way: the cells so far, and whether one of them was 1 before it was inverted (R181). -/
structure Drawing where
  disp : Display
  collision : Bool
  deriving DecidableEq, Repr

/-- One set sprite bit: test the cell, then invert it (R181). -/
def Drawing.plot (g : Drawing) (x y : Nat) : Drawing :=
  ⟨Display.flip g.disp x y, g.collision || Display.cell g.disp x y⟩

/-- Columns 0 to n-1 of one sprite row, ascending: column c tests bit 7 - c, and the cell's coordinates wrap modulo 64 and
32 (R181, R182; the bit order is the spec's D13, log 11). -/
def drawCols (b : Byte) (x0 y0 : Nat) : Nat → Drawing → Drawing
  | 0, g => g
  | c + 1, g =>
    if b.getLsbD (7 - c) then (drawCols b x0 y0 c g).plot ((x0 + c) % 64) (y0 % 32) else drawCols b x0 y0 c g

/-- Rows 0 to n-1 of a sprite at `base`, ascending (R181). -/
def drawRows (m : Memory) (base x0 y0 : Nat) : Nat → Drawing → Drawing
  | 0, g => g
  | r + 1, g => drawCols (Memory.read m (base + r)) x0 (y0 + r) 8 (drawRows m base x0 y0 r g)

/-- The drawing that DXYN makes: N rows from I at (VX, VY), all read before VF is written (R94, R181). -/
def State.drawing (s : State) (x y : Reg) (n : Nib) : Drawing :=
  drawRows s.mem s.i.toNat (s.reg x).toNat (s.reg y).toNat n.toNat ⟨s.disp, false⟩

/-- 00E0: all 2048 cells 0; VF is not written (R180). -/
def execCls (s : State) : Result := completeDisplay (s.setDisplay 0).advance

/-- DXYN: the range is checked only when N is above 0, since N = 0 reads no memory; VF and the changed flag are written by
every completed draw (R181). -/
def execDrw (x y : Reg) (n : Nib) (s : State) : Result :=
  checkRange (if n = 0 then 0 else lastRowAddress s n)
    (completeDisplay ((s.setFlag (s.drawing x y n).collision).setDisplay (s.drawing x y n).disp).advance)

end Sys2Proof.Machine
end

