-- ==== Sys2Proof/Machine/IndexMemory.lean ====
section
/-! DEFINITION. The index register and memory transfer (43_index_memory.md): ANNN, FX1E, FX29, FX33, FX55, FX65. The effective
address is the plain sum I + offset, checked on the whole range before any effect (20_memory.md R54, R55). -/

namespace Sys2Proof.Machine

/-- ANNN (R160). -/
def execLdI (nnn : Addr) (s : State) : Result := complete (s.setI (zextAddr nnn)).advance

/-- FX1E: VF = 1 when the sum leaves the 12-bit range, I = sum modulo 0x1000 (R161). -/
def execAddI (x : Reg) (s : State) : Result :=
  complete ((s.setFlag (indexOverflowFlag s.i (s.reg x))).setI (indexSum s.i (s.reg x))).advance

/-- FX29: I = VX * 5, memory is not accessed (R162). -/
def execLdF (x : Reg) (s : State) : Result := complete (s.setI (glyphAddress (s.reg x))).advance

/-- FX33: the three decimal digits of VX at I, I + 1, I + 2; I is not changed (R163). -/
def execLdB (x : Reg) (s : State) : Result :=
  checkRange (lastDigitAddress s)
    (complete (s.setMem (Memory.writeBytes s.mem s.i.toNat (decimalDigits (s.reg x)))).advance)

/-- FX55: V0 to VX at I and up, then I past the last byte (R164). -/
def execStRegs (x : Reg) (s : State) : Result :=
  checkRange (lastRegAddress s x)
    (complete ((s.setMem (Memory.writeBytes s.mem s.i.toNat (s.regsUpTo x))).setI (s.indexPast x)).advance)

/-- FX65: V0 to VX from I and up, then I past the last byte (R165). -/
def execLdRegs (x : Reg) (s : State) : Result :=
  checkRange (lastRegAddress s x)
    (complete ((s.setRegs (loadRegs s.mem s.i.toNat (x.toNat + 1) s.v)).setI (s.indexPast x)).advance)

end Sys2Proof.Machine
end

