-- ==== Sys2Proof/Machine/Keypad.lean ====
section
/-! DEFINITION. The keypad instructions EX9E, EXA1 and FX0A (45_keypad.md). The flags are read as levels and never written
(10_state.md R29). -/

namespace Sys2Proof.Machine

/-- EX9E: skip if the key whose index is VX is pressed (R190). -/
def execSkp (x : Reg) (s : State) : Result := withKey s (s.reg x) (fun pressed => complete (s.skipIf pressed))

/-- EXA1: skip if the key whose index is VX is not pressed (R191). -/
def execSknp (x : Reg) (s : State) : Result := withKey s (s.reg x) (fun pressed => complete (s.skipIf (!pressed)))

/-- FX0A: the least pressed key into VX, or `NoProgress` with no state change (R192). -/
def execLdVxK (x : Reg) (s : State) : Result :=
  match leastKey s with
  | some k => complete (s.setReg x (BitVec.ofNat 8 k.val)).advance
  | none => noProgress s

end Sys2Proof.Machine
end

