-- ==== Sys2Proof/Machine/LoadAlu.lean ====
section
/-! DEFINITION. Register load, arithmetic, logic, shift, random (42_load_alu.md). Operands are read from the state before the
instruction (R94). Every result is reduced modulo 256, which is the arithmetic of 8-bit words (R142). -/

namespace Sys2Proof.Machine

/-- 6XNN (R130). -/
def execLdImm (x : Reg) (nn : Byte) (s : State) : Result := complete (s.setReg x nn).advance

/-- 7XNN: no flag is set (R131). -/
def execAddImm (x : Reg) (nn : Byte) (s : State) : Result := complete (s.setReg x (s.reg x + nn)).advance

/-- 8XY0 (R132). -/
def execLdReg (x y : Reg) (s : State) : Result := complete (s.setReg x (s.reg y)).advance

/-- 8XY1: VF is not written (R133). -/
def execOr (x y : Reg) (s : State) : Result := complete (s.setReg x (s.reg x ||| s.reg y)).advance

/-- 8XY2: VF is not written (R134). -/
def execAnd (x y : Reg) (s : State) : Result := complete (s.setReg x (s.reg x &&& s.reg y)).advance

/-- 8XY3: VF is not written (R135). -/
def execXor (x y : Reg) (s : State) : Result := complete (s.setReg x (s.reg x ^^^ s.reg y)).advance

/-- 8XY4: VF = carry, VX = sum (R136). -/
def execAddReg (x y : Reg) (s : State) : Result :=
  complete (s.setFlagThenResult (carryFlag (s.reg x) (s.reg y)) x (s.reg x + s.reg y)).advance

/-- 8XY5: VF = no borrow, VX = VX - VY (R137). -/
def execSub (x y : Reg) (s : State) : Result :=
  complete (s.setFlagThenResult (noBorrowFlag (s.reg x) (s.reg y)) x (s.reg x - s.reg y)).advance

/-- 8XY7: VF = no borrow, VX = VY - VX (R139). -/
def execSubn (x y : Reg) (s : State) : Result :=
  complete (s.setFlagThenResult (noBorrowFlag (s.reg y) (s.reg x)) x (s.reg y - s.reg x)).advance

/-- 8XY6 under either value of SHIFT_SOURCE: a logical shift right by one (R138). -/
def shiftRightFrom (src : ShiftSource) (x y : Reg) (s : State) : Result :=
  complete (s.setFlagThenResult (shiftedOutRight (s.shiftOperand src x y)) x (s.shiftOperand src x y >>> 1)).advance

/-- 8XYE under either value of SHIFT_SOURCE: a shift left by one, truncated to 8 bits (R140). -/
def shiftLeftFrom (src : ShiftSource) (x y : Reg) (s : State) : Result :=
  complete (s.setFlagThenResult (shiftedOutLeft (s.shiftOperand src x y)) x (s.shiftOperand src x y <<< 1)).advance

/-- 8XY6 of this hardware, SHIFT_SOURCE = VX (R138). -/
def execShr (x y : Reg) (s : State) : Result := shiftRightFrom Config.shiftSource x y s

/-- 8XYE of this hardware, SHIFT_SOURCE = VX (R140). -/
def execShl (x y : Reg) (s : State) : Result := shiftLeftFrom Config.shiftSource x y s

/-- CXNN: VX = `rand_byte` AND NN (R141). -/
def execRnd (x : Reg) (nn : Byte) (s : State) : Result := complete (s.setReg x (s.randByte &&& nn)).advance

end Sys2Proof.Machine
end

