-- ==== Sys2Proof/Machine/TimerAccess.lean ====
section
/-! DEFINITION. The timer instructions FX07, FX15 and FX18 (46_timer_access.md). The 60 Hz decrement is `tick` of
Machine/HostOps.lean and no instruction (40_step_cycle.md R99). -/

namespace Sys2Proof.Machine

/-- FX07 (R200). -/
def execLdVxDt (x : Reg) (s : State) : Result := complete (s.setReg x s.dt).advance

/-- FX15 (R201). -/
def execLdDtVx (x : Reg) (s : State) : Result := complete (s.setDt (s.reg x)).advance

/-- FX18: no beep, whatever the old and new values (R202). -/
def execLdStVx (x : Reg) (s : State) : Result := complete (s.setSt (s.reg x)).advance

end Sys2Proof.Machine
end

