-- ==== Sys2Proof/Machine/Unknown.lean ====
section
/-! DEFINITION. What a step does with a word that is no instruction (47_unknown.md R210). -/

namespace Sys2Proof.Machine

/-- `Unknown(raw)`: the raw word is reported in the result, pc + 2, "no state change otherwise" (R210, R223). -/
def execUnknown (raw : Word) (s : State) : Result := completeUnknown raw s.advance

end Sys2Proof.Machine
end

