-- ==== Sys2Proof/Machine/Cycle.lean ====
section
/-! DEFINITION. Fetch, decode, execute (40_step_cycle.md R90 to R93, R98). -/

namespace Sys2Proof.Machine

/-- The opcode at pc, `memory[pc] ‖ memory[pc+1]`, as memory is now (R51, R91). -/
def State.fetched (s : State) : Word := Memory.readWord s.mem s.pc.toNat

/-- A fetch is possible when both bytes lie in memory, pc at most 0xFFE (R24, R91). -/
def State.canFetch (s : State) : Bool := decide (s.pc.toNat ≤ 0xFFE)

/-- Execute a tagged instruction: one of the 34, or `Unknown` (R92, R210). -/
def execTagged (t : Tagged) (s : State) : Result :=
  match t with
  | .instr i => exec i s
  | .unknown raw => execUnknown raw s

/-- The end of a step: a step that did not fault has used its `rand_byte` (R90, R239); a fault changes nothing (R222). -/
def endStep (r : Result) : Result :=
  match r with
  | .next t => .next t.nextDraw
  | .fault f => .fault f
  | .refused q => .refused q

/-- `step` (R90): the fetch check, then exactly one instruction. -/
def cycle (s : State) : Result :=
  if s.canFetch then endStep (execTagged (decode s.fetched) s) else raise (.fetchOutOfRange s.pc)

/-- The address the next instruction is placed at for `withFetchWord`: pc, or the ROM base 0x200 where no fetch at pc is
possible (R262). Log 13. -/
def placeAddress (s : State) : Word := if s.canFetch then s.pc else 0x200

/-- Store an opcode's two bytes where the next step fetches, big-endian (R51). Log 13. -/
def placeOpcode (s : State) (w : Word) : State :=
  (s.setPc (placeAddress s)).setMem (Memory.writeBytes s.mem (placeAddress s).toNat (bytesOfWord w))

end Sys2Proof.Machine
end

