-- ==== Sys2Proof/Machine/Step.lean ====
section
/-! DEFINITION. The step of the host's machine is the operation `step` of 40_step_cycle.md R90, and nothing is added around it.
Its argument `rand_byte` stands in the state (Ops.lean, log 3). -/

namespace Sys2Proof.Machine

/-- "executes exactly one instruction" (R90). -/
def step (s : State) : Host.Outcome State Fault Refusal := cycle s

/-- The state with the opcode of `nbits` bits in `w` where the next step fetches (log 13). -/
def State.withFetchWord (s : State) (nbits w : Nat) : State := placeOpcode s (BitVec.ofNat 16 (w % 2 ^ nbits))

end Sys2Proof.Machine
end

