-- ==== Sys2Proof/Machine/HostOps.lean ====
section
/-! DEFINITION. The host's five operations other than `step` (00_scope.md R4, R5; 70_reset_and_hazards.md R273): `tick`
(60_exceptions.md R231, R232), `set_key` (R236), `render_ack` (R238), `load_rom` (R244, R263) and `reset` (R260). Each is atomic
and none overlaps another. -/

namespace Sys2Proof.Machine

/-! ## tick (R231, R232) -/

/-- "decrements ... if >0": a timer at 0 stays at 0 (R231). -/
def decrement (b : Byte) : Byte := if b = 0 then 0 else b - 1

/-- The state after `tick`: DT and ST, and nothing else (R231). -/
def tickState (s : State) : State := (s.setDt (decrement s.dt)).setSt (decrement s.st)

/-- `beep`: true exactly when ST was 1 before the tick (R232). -/
def tickBeep (s : State) : Bool := s.st == 1

/-- `tick()` with its result (R231). -/
def tick (s : State) : State × Bool := (tickState s, tickBeep s)

/-! ## set_key and render_ack (R236, R238) -/

/-- `set_key(k, pressed)`: an index outside 0..15 cannot be expressed (R236). -/
def setKey (s : State) (k : Fin 16) (pressed : Bool) : State := { s with key := s.key.set k.val pressed k.isLt }

/-- `render_ack()`: only the changed flag is cleared (R238). -/
def renderAck (s : State) : State := { s with displayChanged := false }

/-! ## load_rom (R263) -/

/-- The ROM base (R6, R58). -/
def romBase : Nat := 0x200

/-- The largest payload, 0xE00 bytes (R6, R263). -/
def romMax : Nat := 0xE00

/-- What `load_rom` returns (R220, R244). -/
inductive LoadResult where
  | ok
  | romTooLarge
  deriving DecidableEq, Repr

/-- `load_rom(bytes)`: an oversize load is refused and copies nothing; otherwise exactly the payload is written from 0x200
(R263). -/
def loadRom (s : State) (bytes : List Byte) : State × LoadResult :=
  if bytes.length > romMax then (s, .romTooLarge)
  else (s.setMem (Memory.writeBytes s.mem romBase bytes), .ok)

/-! ## reset (R260) -/

/-- The state after `reset` of a machine whose parameter FONT is `font` (R7, R260). Log 5. -/
def State.resetWith (font : FontTable) : State := { State.reset with mem := fontMemory font }

/-- `reset()`: every piece of state at its reset value. The random source is outside the block (R239), so its place in the
stream is not set back: a reset must not make old draws come again. Log 3. -/
def resetOp (font : FontTable) (s : State) : State :=
  { State.resetWith font with randSupply := s.randSupply, draws := s.draws }

end Sys2Proof.Machine
end

