-- ==== Sys2Proof/Machine/Transactions.lean ====
section
/-! DEFINITION. The block at transaction level: the six operations of 00_scope.md R4 as one type, each with its result
(60_exceptions.md R220), and runs as lists of operations. The core accepts any interleaving (R14, R268, D21). Log 2. -/

namespace Sys2Proof.Machine

/-- The six operations with their inputs (R4). -/
inductive Op where
  | reset
  | loadRom (bytes : List Byte)
  | step (randByte : Byte)
  | tick
  | setKey (k : Fin 16) (pressed : Bool)
  | renderAck
  deriving DecidableEq, Repr

/-- What one call of `step` returns (R96): a completed step's result, or `Fault(cause, info)` with nothing changed. -/
inductive StepReply where
  | completed (r : StepResult)
  | faulted (f : Fault)
  /-- Never returned: no instruction is without a meaning. -/
  | refused (q : Refusal)
  deriving DecidableEq, Repr

/-- What an operation returns (R4, R220). -/
inductive Reply where
  | none
  | loaded (r : LoadResult)
  | stepped (r : StepReply)
  | ticked (beep : Bool)
  deriving DecidableEq, Repr

/-- `display_changed` of a `StepResult`; false for a fault (R96, R222). -/
def StepReply.displayChanged : StepReply → Bool
  | .completed r => r.displayChanged
  | .faulted _ => false
  | .refused _ => false

/-- The optional cause codes of R221. -/
def faultCode : Fault → Nat
  | .fetchOutOfRange _ => 1
  | .stackOverflow _ => 2
  | .stackUnderflow _ => 3
  | .memoryOutOfRange _ => 4
  | .keyIndexOutOfRange _ => 5

/-- The recorded info of a fault, 16 bits (R96, R221). -/
def faultInfo : Fault → Word
  | .fetchOutOfRange w => w
  | .stackOverflow w => w
  | .stackUnderflow w => w
  | .memoryOutOfRange w => w
  | .keyIndexOutOfRange w => w

/-- The state with `rand_byte` handed over for the next step (R239). -/
def supplyRand (b : Byte) (s : State) : State := { s with randSupply := b :: s.randSupply }

/-- `step(rand_byte)` (R90): a fault leaves the whole state as it was (R222). -/
def stepOp (b : Byte) (s : State) : State × StepReply :=
  match step (supplyRand b s) with
  | .next t => (t, .completed t.result)
  | .fault f => (s, .faulted f)
  | .refused q => (s, .refused q)

/-- One operation (R4) of a machine with the given FONT, which `reset` alone reads (R7, R38). -/
def applyOp (font : FontTable) (o : Op) (s : State) : State × Reply :=
  match o with
  | .reset => (resetOp font s, .none)
  | .loadRom bytes => ((loadRom s bytes).1, .loaded (loadRom s bytes).2)
  | .step b => ((stepOp b s).1, .stepped (stepOp b s).2)
  | .tick => ((tick s).1, .ticked (tick s).2)
  | .setKey k p => (setKey s k p, .none)
  | .renderAck => (renderAck s, .none)

/-- A run of a machine with the given FONT: operations one after another, in the order the host invokes them (R60, R224), with
their results. -/
def runOps (font : FontTable) : List Op → State → State × List Reply
  | [], s => (s, [])
  | o :: rest, s =>
    ((runOps font rest (applyOp font o s).1).1, (applyOp font o s).2 :: (runOps font rest (applyOp font o s).1).2)

/-- One frame of the reference schedule (R268), a duty of the host and no rule of the core: IPF steps, one for each byte of
`rands`, one tick, the render flush, one input poll. Acknowledging a frame whose flag is already clear changes
nothing, so the flush acknowledges always. -/
def referenceFrame (rands : List Byte) (keys : Vector Bool 16) : List Op :=
  rands.map Op.step ++ [.tick, .renderAck] ++ (List.finRange 16).map (fun k => .setKey k (keys[k.val]'k.isLt))

end Sys2Proof.Machine
end

