-- ==== Sys2Proof/Safety.lean ====
section
/-! DEFINITION. The terms claims are stated in: what a state leaves unchanged (frames), which fault the next step meets
(60_exceptions.md R221), what a safe run and a finished program are (R222; 70_reset_and_hazards.md R272), the ranges of a
reachable state (10_state.md R23 to R25), and the cells a sprite selects (44_display.md R181 to R183). Nothing here is used by
the machine. -/

namespace Sys2Proof.Machine

/-! ## Frames -/

/-- The parts of State that are not general registers, pc, the step's result or the draws. -/
inductive Part where
  | index
  | sp
  | entries
  | delay
  | sound
  | keys
  | memory
  | display
  deriving DecidableEq, Repr

/-- From `s` to `t` nothing changes but the registers listed, the parts listed, pc and the step's result. Memory is compared
byte by byte, through the model's read of one byte. -/
def Frame (regs : List Reg) (parts : List Part) (s t : State) : Prop :=
  (∀ r, r ∉ regs → t.reg r = s.reg r) ∧
  (Part.index ∉ parts → t.i = s.i) ∧
  (Part.sp ∉ parts → t.sp = s.sp) ∧
  (Part.entries ∉ parts → t.stack = s.stack) ∧
  (Part.delay ∉ parts → t.dt = s.dt) ∧
  (Part.sound ∉ parts → t.st = s.st) ∧
  (Part.keys ∉ parts → t.key = s.key) ∧
  (Part.memory ∉ parts → ∀ a, Memory.read t.mem a = Memory.read s.mem a) ∧
  (Part.display ∉ parts → t.disp = s.disp ∧ t.displayChanged = s.displayChanged) ∧
  t.randSupply = s.randSupply ∧ t.draws = s.draws

/-- The instruction's status is `Executed`, with the given `display_changed` (R96, R97). -/
def Executed (display : Bool) (t : State) : Prop := t.result = ⟨display, .executed⟩

/-! ## The access tables (10_state.md R20, R21, R23, R34) -/

/-- The registers an instruction may write: VX, V0 to VX for FX65, and VF where it is written as a flag (R20, R21). -/
def writtenRegs : Instr → List Reg
  | .cls | .ret | .jp _ | .call _ | .seImm _ _ | .sneImm _ _ | .seReg _ _ | .sneReg _ _ => []
  | .ldI _ | .jpV0 _ | .skp _ | .sknp _ | .ldDtVx _ | .ldStVx _ | .ldF _ | .ldB _ | .stRegs _ => []
  | .ldImm x _ | .addImm x _ | .ldReg x _ | .or x _ | .and x _ | .xor x _ => [x]
  | .rnd x _ | .ldVxDt x | .ldVxK x => [x]
  | .addReg x _ | .sub x _ | .shr x _ | .subn x _ | .shl x _ => [x, vf]
  | .drw _ _ _ | .addI _ => [vf]
  | .ldRegs x => (List.range (x.toNat + 1)).map (BitVec.ofNat 4)

/-- The other parts an instruction may write, the column "written by" of R34 and the list of R54. -/
def writtenParts : Instr → List Part
  | .cls | .drw _ _ _ => [.display]
  | .ret => [.sp]
  | .call _ => [.sp, .entries]
  | .ldI _ | .addI _ | .ldF _ | .ldRegs _ => [.index]
  | .ldDtVx _ => [.delay]
  | .ldStVx _ => [.sound]
  | .ldB _ => [.memory]
  | .stRegs _ => [.memory, .index]
  | .jp _ | .seImm _ _ | .sneImm _ _ | .seReg _ _ | .ldImm _ _ | .addImm _ _ | .ldReg _ _ => []
  | .or _ _ | .and _ _ | .xor _ _ | .addReg _ _ | .sub _ _ | .shr _ _ | .subn _ _ | .shl _ _ => []
  | .sneReg _ _ | .jpV0 _ | .rnd _ _ | .skp _ | .sknp _ | .ldVxDt _ | .ldVxK _ => []

/-- The key flag of an index, false where no flag exists (R29). -/
def keyPressed (s : State) (k : Nat) : Bool := if h : k < 16 then s.key[k]'h else false

/-- pc after an instruction that completes, or FX0A with no key (the table of R23). -/
def pcAfter (i : Instr) (s : State) : Word :=
  match i with
  | .jp nnn | .call nnn => zextAddr nnn
  | .jpV0 nnn => BitVec.ofNat 16 (nnn.toNat + (s.reg v0).toNat)
  | .ret => s.stack.toList.getD (s.sp.val - 1) 0 + 2
  | .seImm x nn => if s.reg x = nn then s.pc + 4 else s.pc + 2
  | .sneImm x nn => if s.reg x ≠ nn then s.pc + 4 else s.pc + 2
  | .seReg x y => if s.reg x = s.reg y then s.pc + 4 else s.pc + 2
  | .sneReg x y => if s.reg x ≠ s.reg y then s.pc + 4 else s.pc + 2
  | .skp x => if keyPressed s (s.reg x).toNat then s.pc + 4 else s.pc + 2
  | .sknp x => if keyPressed s (s.reg x).toNat then s.pc + 2 else s.pc + 4
  | .ldVxK _ => if ∃ k : Fin 16, s.key[k.val] = true then s.pc + 2 else s.pc
  | .cls | .ldImm _ _ | .addImm _ _ | .ldReg _ _ | .or _ _ | .and _ _ | .xor _ _ => s.pc + 2
  | .addReg _ _ | .sub _ _ | .shr _ _ | .subn _ _ | .shl _ _ | .ldI _ | .rnd _ _ | .drw _ _ _ => s.pc + 2
  | .ldVxDt _ | .ldDtVx _ | .ldStVx _ | .addI _ | .ldF _ | .ldB _ | .stRegs _ | .ldRegs _ => s.pc + 2

/-! ## Faults and safe runs (60_exceptions.md R221, R222) -/

/-- The range condition of R221's fourth row, with its info. -/
def rangeFault (last : Nat) : Option Fault :=
  if last > 0xFFF then some (.memoryOutOfRange (BitVec.ofNat 16 last)) else none

/-- The instruction's own fault condition, if it holds, with the recorded info (the table of R221). -/
def instrFault (i : Instr) (s : State) : Option Fault :=
  match i with
  | .call _ => if s.sp = 16 then some (.stackOverflow s.pc) else none
  | .ret => if s.sp = 0 then some (.stackUnderflow s.pc) else none
  | .drw _ _ n => if 0 < n.toNat then rangeFault (s.i.toNat + n.toNat - 1) else none
  | .ldB _ => rangeFault (s.i.toNat + 2)
  | .stRegs x | .ldRegs x => rangeFault (s.i.toNat + x.toNat)
  | .skp x | .sknp x =>
    if (s.reg x).toNat > 15 then some (.keyIndexOutOfRange (zextByte (s.reg x))) else none
  | .cls | .jp _ | .seImm _ _ | .sneImm _ _ | .seReg _ _ | .ldImm _ _ | .addImm _ _ | .ldReg _ _ => none
  | .or _ _ | .and _ _ | .xor _ _ | .addReg _ _ | .sub _ _ | .shr _ _ | .subn _ _ | .shl _ _ => none
  | .sneReg _ _ | .ldI _ | .jpV0 _ | .rnd _ _ | .ldVxDt _ | .ldVxK _ | .ldDtVx _ | .ldStVx _ => none
  | .addI _ | .ldF _ => none

/-- The fault the next step meets, if any: the fetch check first, then the instruction's own condition (R221, R224). -/
def nextFault (s : State) : Option Fault :=
  if s.pc.toNat > 0xFFE then some (.fetchOutOfRange s.pc)
  else
    match decode s.fetched with
    | .instr i => instrFault i s
    | .unknown _ => none

/-- A safe run of n steps: "no `step` returned `Fault`" (R222). A machine whose next step faults is stuck, not finished. -/
def SafeRun : Nat → State → Prop
  | 0, _ => True
  | n + 1, s => ∃ t, step s = .next t ∧ SafeRun n t

/-- A program is finished when pc holds the address of a 1NNN whose NNN equals that address (R272). -/
def Finished (s : State) : Prop := s.pc.toNat ≤ 0xFFE ∧ ∃ nnn, decode s.fetched = .instr (.jp nnn) ∧ zextAddr nnn = s.pc

/-! ## Reachable states (10_state.md R23 to R26) -/

/-- The invariant of the machine: memory in its canonical form, I at most 0x1000 (R25), pc at most 0x10FE (R24), and every
stack entry the address of a fetched instruction, at most 0xFFE (R23). That sp is at most 16 is in its type (R26). -/
def State.Inv (s : State) : Prop :=
  Memory.wf s.mem = true ∧ s.i.toNat ≤ 0x1000 ∧ s.pc.toNat ≤ 0x10FE ∧ ∀ k : Fin 16, s.stack[k.val].toNat ≤ 0xFFE

/-! ## Sprites (44_display.md R181 to R183) -/

/-- Cell (x, y) is selected by a set bit of the n-row sprite at `base` drawn at (x0, y0): some row r and column c with bit
7 - c of the row's byte set, whose wrapped coordinates are (x, y) (R181, R182). -/
def Selects (m : Memory) (base x0 y0 n x y : Nat) : Prop :=
  ∃ r < n, ∃ c < 8, (Memory.read m (base + r)).getLsbD (7 - c) = true ∧ x = (x0 + c) % 64 ∧ y = (y0 + r) % 32

end Sys2Proof.Machine
end

