-- ==== Sys2Proof/Certificates/Slice0/Obligations.lean ====
section
/-! DEFINITION. The statements for the provers. Each is one or more numbered rules of spec/ in the model's terms; where a clause
rests on a decision of 92_eei_decisions.md or on a choice of the model, the docstring names it. `Frame regs parts s t`
(Safety.lean) says that nothing but the listed registers and parts, pc and the step's result changes, memory compared byte by byte. -/

open Sys2Proof Sys2Proof.Machine

/-! ## Encoding and decoding -/

/-- Words written out from the patterns of R76, one or more of every format and of every family from 0 to F, decode to what they
stand for; words of R77 decode to `Unknown` (0000 by the spec's decision D1, 5121 and F000 by D2, log 9). -/
def Obligations.SpecWordsDecode : Prop :=
  decode 0x00E0 = .instr .cls ∧ decode 0x00EE = .instr .ret ∧ decode 0x1ABC = .instr (.jp 0xABC) ∧
  decode 0x2345 = .instr (.call 0x345) ∧ decode 0x4A05 = .instr (.sneImm 0xA 0x05) ∧
  decode 0x5120 = .instr (.seReg 0x1 0x2) ∧ decode 0x7A01 = .instr (.addImm 0xA 0x01) ∧
  decode 0x9120 = .instr (.sneReg 0x1 0x2) ∧ decode 0xBFFE = .instr (.jpV0 0xFFE) ∧
  decode 0x3A05 = .instr (.seImm 0xA 0x05) ∧ decode 0x6A05 = .instr (.ldImm 0xA 0x05) ∧
  decode 0x8124 = .instr (.addReg 0x1 0x2) ∧ decode 0x812E = .instr (.shl 0x1 0x2) ∧
  decode 0xA300 = .instr (.ldI 0x300) ∧ decode 0xC30F = .instr (.rnd 0x3 0x0F) ∧
  decode 0xD125 = .instr (.drw 0x1 0x2 0x5) ∧ decode 0xE39E = .instr (.skp 0x3) ∧
  decode 0xF20A = .instr (.ldVxK 0x2) ∧ decode 0xF255 = .instr (.stRegs 0x2) ∧
  decode 0x0000 = .unknown 0x0000 ∧ decode 0x5121 = .unknown 0x5121 ∧ decode 0xF000 = .unknown 0xF000

/-- Decoding the word of a well-formed tagged instruction, any of the 34 with any operands or an `Unknown` word of R77, gives it
back: no bit of an encoding is dropped. -/
def Obligations.DecodeOfEncodeGivesItBack : Prop :=
  ∀ t : Tagged, t.wf = true → decode (encodeTagged t) = t

/-- Every one of the 65536 words is the word of what it decodes to, and what it decodes to is well formed: an `Unknown` word is on
R77's list. That every fixed bit of a pattern is compared, so that no bit of a word is ignored, is the spec's decision D2 (log
9). -/
def Obligations.EncodeOfDecodeIsTheWord : Prop :=
  ∀ w : Word, encodeTagged (decode w) = w ∧ (decode w).wf = true

/-- A word decodes to `Unknown`, with the raw word, exactly when it is on R77's list, which `isUnknownWord` writes down family by
family (decision D2). -/
def Obligations.UnknownExactlyOnListedWords : Prop :=
  ∀ w : Word, (isUnknownWord w = true → decode w = .unknown w) ∧
    (isUnknownWord w = false → ∃ i, decode w = .instr i)

/-- "the 34 rows are pairwise disjoint" (R74): no word selects two of them, and there are 34. -/
def Obligations.NoWordSelectsTwoRows : Prop :=
  opcodeRows.length = 34 ∧ ∀ w : Word, (opcodeRows.filter (fun r => r.selects w)).length ≤ 1

/-! ## The step -/

/-- When the two bytes at pc decode to an instruction, the step is `exec` of it at that state; the step moves on to the next
`rand_byte` (the model's own fields, log 3) and adds nothing else. A fault of `exec` is the step's. -/
def Obligations.StepRunsDecodedInstruction : Prop :=
  ∀ (s : State) (i : Instr), s.pc.toNat ≤ 0xFFE →
    decode (wordOfBytes (Memory.read s.mem s.pc.toNat) (Memory.read s.mem (s.pc.toNat + 1))) = .instr i →
    (∀ t, exec i s = .next t →
      step s = .next { t with randSupply := t.randSupply.tail, draws := t.draws + 1 }) ∧
    (∀ f, exec i s = .fault f → step s = .fault f)

/-- A word that is no instruction is reported with its raw value, pc advances by 2, and no other state of the spec changes (R210);
that the step takes one entry of `randSupply` and adds one to `draws`, the model's own fields, is the model's choice (log
3), and so is the field `result` that carries the report (log 1). -/
def Obligations.UnknownWordIsReportedAndSkipped : Prop :=
  ∀ (s : State) (raw : Word), s.pc.toNat ≤ 0xFFE →
    decode (wordOfBytes (Memory.read s.mem s.pc.toNat) (Memory.read s.mem (s.pc.toNat + 1))) = .unknown raw →
    step s = .next { s with
      pc := s.pc + 2, result := ⟨false, .unknownOpcode raw⟩,
      randSupply := s.randSupply.tail, draws := s.draws + 1 }

/-- A step with pc above 0xFFE faults with pc (the spec's decision D5). -/
def Obligations.FetchOutsideMemoryFaults : Prop :=
  ∀ s : State, 0xFFE < s.pc.toNat → step s = .fault (.fetchOutOfRange s.pc)

/-- The fetched opcode is `memory[pc] * 256 + memory[pc+1]`: the byte at the lower address is op[15:8] (R51). -/
def Obligations.FetchIsBigEndian : Prop :=
  ∀ s : State, s.fetched.toNat =
      (Memory.read s.mem s.pc.toNat).toNat * 256 + (Memory.read s.mem (s.pc.toNat + 1)).toNat ∧
    s.fetched.extractLsb' 8 8 = Memory.read s.mem s.pc.toNat ∧
    s.fetched.extractLsb' 0 8 = Memory.read s.mem (s.pc.toNat + 1)

/-- From every state, a step faults exactly when a condition of R221's table holds, with that row's cause and info; otherwise
it answers a next state; it never refuses. The conditions are the spec's decisions D3, D4, D5, D8, D10. -/
def Obligations.StepFaultsExactlyAsListed : Prop :=
  ∀ s : State,
    (∀ f, step s = .fault f ↔ nextFault s = some f) ∧
    ((∃ t, step s = .next t) ↔ nextFault s = none) ∧
    (∀ q, step s ≠ .refused q)

/-! ## The invariant -/

/-- The state after reset meets the invariant, under the default FONT and under any other (R7); I, the stack and the memory from
0x050 up meet it by the zeros of the spec's decision D16 (log 4). -/
def Obligations.ResetMeetsInvariant : Prop :=
  State.reset.Inv ∧ ∀ font : FontTable, (State.resetWith font).Inv

/-- From every state that meets it, a step keeps the invariant: memory canonical, I at most 0x1000, pc at most 0x10FE, and every
stack entry at most 0xFFE (the derived ranges of R23, R24, R25). -/
def Obligations.StepKeepsInvariant : Prop :=
  ∀ s t : State, s.Inv → step s = .next t → t.Inv

/-- Every run of the six operations, in any interleaving, with any inputs and any FONT, keeps the invariant; its `reset`
operations keep it by the zeros of the spec's decision D16 (log 4). -/
def Obligations.EveryRunKeepsInvariant : Prop :=
  ∀ (font : FontTable) (ops : List Op) (s : State), s.Inv → (runOps font ops s).1.Inv

/-- What `reset` leaves under any value of the parameter FONT (R7, R260): pc 0x200 by the source; every zero and false is the spec's
decision D16 (log 4), and 0 at an address above 0xFFF, which no step reads, is the model's (log 17); memory 0x000 to 0x04F
holds FONT. `State.reset` is that state for the default table (log 5). From any state the operation `reset` leaves the
same, but for the model's own `randSupply` and `draws`, which it keeps (the model's choice, log 3). -/
def Obligations.ResetLeavesTheListedValues : Prop :=
  ∀ (font : FontTable) (s : State), (State.resetWith font).pc = 0x200 ∧ (∀ r, (State.resetWith font).reg r = 0) ∧
    (State.resetWith font).i = 0 ∧ (State.resetWith font).sp = 0 ∧
    (∀ k : Fin 16, (State.resetWith font).stack[k.val] = 0 ∧ (State.resetWith font).key[k.val] = false) ∧
    (State.resetWith font).dt = 0 ∧ (State.resetWith font).st = 0 ∧
    (∀ x y, Display.cell (State.resetWith font).disp x y = false) ∧
    (State.resetWith font).displayChanged = false ∧
    (∀ a : Fin 80, Memory.read (State.resetWith font).mem a.val = font[a.val]) ∧
    (∀ a, 80 ≤ a → Memory.read (State.resetWith font).mem a = 0) ∧
    State.reset = State.resetWith defaultFont ∧
    resetOp font s = { State.resetWith font with randSupply := s.randSupply, draws := s.draws }

/-! ## Rules about every instruction -/

/-- The complete table of R23: pc after every instruction that answers a next state. -/
def Obligations.PcFollowsTheTable : Prop :=
  ∀ (i : Instr) (s t : State), exec i s = .next t → t.pc = pcAfter i s

/-- Every instruction that answers a next state changes only the registers and parts that R20, R21, R34 and R54 let it write. -/
def Obligations.OnlyListedStateIsWritten : Prop :=
  ∀ (i : Instr) (s t : State), exec i s = .next t → Frame (writtenRegs i) (writtenParts i) s t

/-- The sticky flag after a step is its value before, or true when the step's result says so (R32, R96); the result says so
only for 00E0 and DXYN; and a step after which any cell differs is one of them (R183). That a step reports a change exactly when
it set the sticky flag is the spec's decision D24 (the record that carries it D19, its place log 1), and that every completed DXYN
counts, N = 0 included, is D12 (log 16). -/
def Obligations.StickyFlagFollowsTheResult : Prop :=
  ∀ s t : State, step s = .next t →
    t.displayChanged = (s.displayChanged || t.result.displayChanged) ∧
    (t.result.displayChanged = true ↔
      decode s.fetched = .instr .cls ∨ ∃ x y n, decode s.fetched = .instr (.drw x y n)) ∧
    (t.disp ≠ s.disp → t.result.displayChanged = true)

/-- No instruction reads ST (R28), the sticky flag (R270) or the previous result (R37), and none but CXNN reads `rand_byte`
(R141): with these changed, the same instruction gives the same outcome, but for the fields changed. -/
def Obligations.UnreadFieldsDoNotMatter : Prop :=
  ∀ (i : Instr) (s : State) (b : Byte) (c : Bool) (r : StepResult) (q : List Byte) (d : Nat),
    (∀ x nn, i = .rnd x nn → q = s.randSupply ∧ d = s.draws) →
    (∀ t, exec i s = .next t →
      ∃ t', exec i { s with st := b, displayChanged := c, result := r, randSupply := q, draws := d } = .next t' ∧
        { t' with st := t.st, displayChanged := t.displayChanged, randSupply := t.randSupply, draws := t.draws } = t) ∧
    (∀ f, exec i s = .fault f →
      exec i { s with st := b, displayChanged := c, result := r, randSupply := q, draws := d } = .fault f)

/-! ## Control transfer -/

/-- 1NNN (R110): pc = NNN, for every NNN, and nothing else changes. -/
def Obligations.JumpSetsPc : Prop :=
  ∀ (s : State) (nnn : Addr), ∃ t, exec (.jp nnn) s = .next t ∧ t.pc.toNat = nnn.toNat ∧
    Executed false t ∧ Frame [] [] s t

/-- BNNN: pc = NNN + V0, not reduced modulo 0x1000 (the spec's decision D7), and nothing else changes. -/
def Obligations.JumpWithOffsetAddsV0 : Prop :=
  ∀ (s : State) (nnn : Addr), ∃ t, exec (.jpV0 nnn) s = .next t ∧
    t.pc.toNat = nnn.toNat + (s.reg v0).toNat ∧ Executed false t ∧ Frame [] [] s t

/-- 2NNN with a stack that is not full: its own address is pushed, sp grows by one, pc = NNN; the other entries keep their
values. -/
def Obligations.CallPushesItsOwnAddress : Prop :=
  ∀ (s : State) (nnn : Addr), s.sp.val < 16 → ∃ t, exec (.call nnn) s = .next t ∧
    (∀ k : Fin 16, t.stack[k.val] = if k.val = s.sp.val then s.pc else s.stack[k.val]) ∧
    t.sp.val = s.sp.val + 1 ∧ t.pc.toNat = nnn.toNat ∧ Executed false t ∧ Frame [] [.sp, .entries] s t

/-- 2NNN at sp = 16 faults with its own address (the spec's decision D3). -/
def Obligations.CallOnFullStackFaults : Prop :=
  ∀ (s : State) (nnn : Addr), s.sp = 16 → exec (.call nnn) s = .fault (.stackOverflow s.pc)

/-- 00EE with a stack that is not empty: pc is the top entry plus 2, sp shrinks by one, and the popped entry keeps its value. -/
def Obligations.ReturnPopsTheTopEntry : Prop :=
  ∀ s : State, 0 < s.sp.val → ∃ t, exec .ret s = .next t ∧
    (∀ k : Fin 16, k.val + 1 = s.sp.val → t.pc = s.stack[k.val] + 2) ∧
    t.sp.val + 1 = s.sp.val ∧ Executed false t ∧ Frame [] [.sp] s t

/-- 00EE at sp = 0 faults with its own address (the spec's decision D4). -/
def Obligations.ReturnOnEmptyStackFaults : Prop :=
  ∀ s : State, s.sp = 0 → exec .ret s = .fault (.stackUnderflow s.pc)

/-- A 00EE executed with the stack that a 2NNN left resumes at the instruction after the call, with sp as before it. -/
def Obligations.ReturnResumesAfterTheCall : Prop :=
  ∀ (s : State) (nnn : Addr), s.sp.val < 16 → ∃ t, exec (.call nnn) s = .next t ∧
    ∀ u : State, u.sp = t.sp → u.stack = t.stack →
      ∃ w, exec .ret u = .next w ∧ w.pc = s.pc + 2 ∧ w.sp = s.sp

/-- 3XNN, 4XNN, 5XY0, 9XY0 (R114 to R117): pc + 4 when the condition holds, else pc + 2, and nothing else changes. -/
def Obligations.RegisterSkipsTestAndSkip : Prop :=
  ∀ (s : State) (x y : Reg) (nn : Byte),
    (∃ t, exec (.seImm x nn) s = .next t ∧
      t.pc = (if (s.reg x).toNat = nn.toNat then s.pc + 4 else s.pc + 2) ∧ Executed false t ∧ Frame [] [] s t) ∧
    (∃ t, exec (.sneImm x nn) s = .next t ∧
      t.pc = (if (s.reg x).toNat = nn.toNat then s.pc + 2 else s.pc + 4) ∧ Executed false t ∧ Frame [] [] s t) ∧
    (∃ t, exec (.seReg x y) s = .next t ∧
      t.pc = (if (s.reg x).toNat = (s.reg y).toNat then s.pc + 4 else s.pc + 2) ∧ Executed false t ∧ Frame [] [] s t) ∧
    (∃ t, exec (.sneReg x y) s = .next t ∧
      t.pc = (if (s.reg x).toNat = (s.reg y).toNat then s.pc + 2 else s.pc + 4) ∧ Executed false t ∧ Frame [] [] s t)

/-! ## Load, arithmetic, logic, shift, random -/

/-- 6XNN and 8XY0 (R130, R132), for every X and Y, VF included. -/
def Obligations.LoadsSetTheRegister : Prop :=
  ∀ (s : State) (x y : Reg) (nn : Byte),
    (∃ t, exec (.ldImm x nn) s = .next t ∧ t.reg x = nn ∧ t.pc = s.pc + 2 ∧ Executed false t ∧ Frame [x] [] s t) ∧
    (∃ t, exec (.ldReg x y) s = .next t ∧ t.reg x = s.reg y ∧ t.pc = s.pc + 2 ∧ Executed false t ∧ Frame [x] [] s t)

/-- 7XNN (R131): the sum modulo 256, and VF is not written unless it is VX. -/
def Obligations.AddImmediateWrapsWithoutFlag : Prop :=
  ∀ (s : State) (x : Reg) (nn : Byte), ∃ t, exec (.addImm x nn) s = .next t ∧
    (t.reg x).toNat = ((s.reg x).toNat + nn.toNat) % 256 ∧ t.pc = s.pc + 2 ∧ Executed false t ∧ Frame [x] [] s t

/-- 8XY1, 8XY2, 8XY3 (R133 to R135): bit by bit, and VF is not written unless it is VX. -/
def Obligations.LogicIsBitByBit : Prop :=
  ∀ (s : State) (x y : Reg),
    (∃ t, exec (.or x y) s = .next t ∧
      (∀ k : Fin 8, (t.reg x).getLsbD k = ((s.reg x).getLsbD k || (s.reg y).getLsbD k)) ∧
      t.pc = s.pc + 2 ∧ Executed false t ∧ Frame [x] [] s t) ∧
    (∃ t, exec (.and x y) s = .next t ∧
      (∀ k : Fin 8, (t.reg x).getLsbD k = ((s.reg x).getLsbD k && (s.reg y).getLsbD k)) ∧
      t.pc = s.pc + 2 ∧ Executed false t ∧ Frame [x] [] s t) ∧
    (∃ t, exec (.xor x y) s = .next t ∧
      (∀ k : Fin 8, (t.reg x).getLsbD k = ((s.reg x).getLsbD k != (s.reg y).getLsbD k)) ∧
      t.pc = s.pc + 2 ∧ Executed false t ∧ Frame [x] [] s t)

/-- 8XY4 (R136) where neither operand is VF: the sum modulo 256, and VF = 1 exactly when the unsigned sum is above 255.
The forms that name VF are in `FlagWritersNamingVf`. -/
def Obligations.AddSetsCarry : Prop :=
  ∀ (s : State) (x y : Reg), x ≠ vf → y ≠ vf → ∃ t, exec (.addReg x y) s = .next t ∧
    (t.reg x).toNat = ((s.reg x).toNat + (s.reg y).toNat) % 256 ∧
    t.reg vf = (if (s.reg x).toNat + (s.reg y).toNat > 255 then 1 else 0) ∧
    t.pc = s.pc + 2 ∧ Executed false t ∧ Frame [x, vf] [] s t

/-- 8XY5 and 8XY7 (R137, R139) where neither operand is VF: the difference modulo 256, and VF = 1 exactly when no borrow
occurs, unsigned. The forms that name VF are in `FlagWritersNamingVf`. -/
def Obligations.SubtractsSetNoBorrow : Prop :=
  ∀ (s : State) (x y : Reg), x ≠ vf → y ≠ vf →
    (∃ t, exec (.sub x y) s = .next t ∧
      (t.reg x).toNat = ((s.reg x).toNat + 256 - (s.reg y).toNat) % 256 ∧
      t.reg vf = (if (s.reg x).toNat ≥ (s.reg y).toNat then 1 else 0) ∧
      t.pc = s.pc + 2 ∧ Executed false t ∧ Frame [x, vf] [] s t) ∧
    (∃ t, exec (.subn x y) s = .next t ∧
      (t.reg x).toNat = ((s.reg y).toNat + 256 - (s.reg x).toNat) % 256 ∧
      t.reg vf = (if (s.reg y).toNat ≥ (s.reg x).toNat then 1 else 0) ∧
      t.pc = s.pc + 2 ∧ Executed false t ∧ Frame [x, vf] [] s t)

/-- 8XY6 and 8XYE (R138, R140) where neither field names VF: VX is shifted by one and VF is the bit shifted out; with the other
value of SHIFT_SOURCE (not this hardware's) it is VY. The forms that name VF are in `FlagWritersNamingVf`. -/
def Obligations.ShiftsMoveOneBitIntoVf : Prop :=
  ∀ (s : State) (x y : Reg), x ≠ vf → y ≠ vf →
    (∃ t, exec (.shr x y) s = .next t ∧ (t.reg x).toNat = (s.reg x).toNat / 2 ∧
      (t.reg vf).toNat = (s.reg x).toNat % 2 ∧ t.pc = s.pc + 2 ∧ Executed false t ∧ Frame [x, vf] [] s t) ∧
    (∃ t, exec (.shl x y) s = .next t ∧ (t.reg x).toNat = (s.reg x).toNat * 2 % 256 ∧
      (t.reg vf).toNat = (s.reg x).toNat / 128 ∧ t.pc = s.pc + 2 ∧ Executed false t ∧ Frame [x, vf] [] s t) ∧
    (∃ t, shiftRightFrom .vy x y s = .next t ∧ (t.reg x).toNat = (s.reg y).toNat / 2 ∧
      (t.reg vf).toNat = (s.reg y).toNat % 2 ∧ t.pc = s.pc + 2 ∧ Executed false t ∧ Frame [x, vf] [] s t) ∧
    (∃ t, shiftLeftFrom .vy x y s = .next t ∧ (t.reg x).toNat = (s.reg y).toNat * 2 % 256 ∧
      (t.reg vf).toNat = (s.reg y).toNat / 128 ∧ t.pc = s.pc + 2 ∧ Executed false t ∧ Frame [x, vf] [] s t)

/-- The five flag-writing ALU instructions where X or Y is F (the table of R143, the spec's decision D11, log 7): operands are the
old values; with X other than F both VX and the flag stand; with X = F the result, written last, is what remains. -/
def Obligations.FlagWritersNamingVf : Prop :=
  ∀ (s : State) (x y : Reg), (x = vf ∨ y = vf) →
    (∃ t, exec (.addReg x y) s = .next t ∧ (t.reg x).toNat = ((s.reg x).toNat + (s.reg y).toNat) % 256 ∧
      (x ≠ vf → t.reg vf = (if (s.reg x).toNat + (s.reg y).toNat > 255 then 1 else 0)) ∧
      t.pc = s.pc + 2 ∧ Executed false t ∧ Frame [x, vf] [] s t) ∧
    (∃ t, exec (.sub x y) s = .next t ∧ (t.reg x).toNat = ((s.reg x).toNat + 256 - (s.reg y).toNat) % 256 ∧
      (x ≠ vf → t.reg vf = (if (s.reg x).toNat ≥ (s.reg y).toNat then 1 else 0)) ∧
      t.pc = s.pc + 2 ∧ Executed false t ∧ Frame [x, vf] [] s t) ∧
    (∃ t, exec (.subn x y) s = .next t ∧ (t.reg x).toNat = ((s.reg y).toNat + 256 - (s.reg x).toNat) % 256 ∧
      (x ≠ vf → t.reg vf = (if (s.reg y).toNat ≥ (s.reg x).toNat then 1 else 0)) ∧
      t.pc = s.pc + 2 ∧ Executed false t ∧ Frame [x, vf] [] s t) ∧
    (∃ t, exec (.shr x y) s = .next t ∧ (t.reg x).toNat = (s.reg x).toNat / 2 ∧
      (x ≠ vf → (t.reg vf).toNat = (s.reg x).toNat % 2) ∧
      t.pc = s.pc + 2 ∧ Executed false t ∧ Frame [x, vf] [] s t) ∧
    (∃ t, exec (.shl x y) s = .next t ∧ (t.reg x).toNat = (s.reg x).toNat * 2 % 256 ∧
      (x ≠ vf → (t.reg vf).toNat = (s.reg x).toNat / 128) ∧
      t.pc = s.pc + 2 ∧ Executed false t ∧ Frame [x, vf] [] s t)

/-- CXNN: VX = `rand_byte` AND NN, where `rand_byte` is the host's when it has supplied one and otherwise the free value of this
draw (log 3); the statement holds for every value of either. -/
def Obligations.RandomIsMaskedByImmediate : Prop :=
  ∀ (s : State) (x : Reg) (nn : Byte),
    (∃ t, exec (.rnd x nn) s = .next t ∧ t.reg x = s.randByte &&& nn ∧ t.pc = s.pc + 2 ∧
      Executed false t ∧ Frame [x] [] s t) ∧
    (∀ b, (supplyRand b s).randByte = b)

/-! ## Index register and memory transfer -/

/-- ANNN (R160). -/
def Obligations.LoadIndexSetsI : Prop :=
  ∀ (s : State) (nnn : Addr), ∃ t, exec (.ldI nnn) s = .next t ∧ t.i.toNat = nnn.toNat ∧ t.pc = s.pc + 2 ∧
    Executed false t ∧ Frame [] [.index] s t

/-- FX1E (R161), for every X and every I (with X = F the addend is the old VF, by the read-first decision D11 of R94, log 7): the sum modulo 0x1000, and VF = 1 exactly when
the sum is above 0xFFF. -/
def Obligations.AddToIndexSetsOverflow : Prop :=
  ∀ (s : State) (x : Reg), ∃ t, exec (.addI x) s = .next t ∧
    t.i.toNat = (s.i.toNat + (s.reg x).toNat) % 0x1000 ∧
    t.reg vf = (if s.i.toNat + (s.reg x).toNat > 0xFFF then 1 else 0) ∧ t.pc = s.pc + 2 ∧
    Executed false t ∧ Frame [vf] [.index] s t

/-- FX29: I = VX * 5 with the whole byte (the formula of the source; that no mask is added is the spec's decision D29). -/
def Obligations.GlyphAddressIsFiveTimesVx : Prop :=
  ∀ (s : State) (x : Reg), ∃ t, exec (.ldF x) s = .next t ∧ t.i.toNat = (s.reg x).toNat * 5 ∧ t.pc = s.pc + 2 ∧
    Executed false t ∧ Frame [] [.index] s t

/-- FX33 with I + 2 inside memory: hundreds, tens and units of VX at I, I + 1, I + 2, and every other byte as before. -/
def Obligations.DecimalDigitsAreStored : Prop :=
  ∀ (s : State) (x : Reg), s.i.toNat + 2 ≤ 0xFFF → ∃ t, exec (.ldB x) s = .next t ∧
    (Memory.read t.mem s.i.toNat).toNat = (s.reg x).toNat / 100 ∧
    (Memory.read t.mem (s.i.toNat + 1)).toNat = (s.reg x).toNat / 10 % 10 ∧
    (Memory.read t.mem (s.i.toNat + 2)).toNat = (s.reg x).toNat % 10 ∧
    (∀ a, a < s.i.toNat ∨ s.i.toNat + 2 < a → Memory.read t.mem a = Memory.read s.mem a) ∧
    t.pc = s.pc + 2 ∧ Executed false t ∧ Frame [] [.memory] s t

/-- FX55 with I + X inside memory: V0 to VX at I to I + X, every other byte as before, and I = I + X + 1, not reduced modulo
0x1000 (the spec's decision D9). -/
def Obligations.RegistersAreStored : Prop :=
  ∀ (s : State) (x : Reg), s.i.toNat + x.toNat ≤ 0xFFF → ∃ t, exec (.stRegs x) s = .next t ∧
    (∀ r : Reg, r.toNat ≤ x.toNat → Memory.read t.mem (s.i.toNat + r.toNat) = s.reg r) ∧
    (∀ a, a < s.i.toNat ∨ s.i.toNat + x.toNat < a → Memory.read t.mem a = Memory.read s.mem a) ∧
    t.i.toNat = s.i.toNat + x.toNat + 1 ∧
    t.pc = s.pc + 2 ∧ Executed false t ∧ Frame [] [.memory, .index] s t

/-- FX65 with I + X inside memory: V0 to VX from I to I + X, the registers above VX as before, and I = I + X + 1, not reduced
modulo 0x1000 (the spec's decision D9). -/
def Obligations.RegistersAreLoaded : Prop :=
  ∀ (s : State) (x : Reg), s.i.toNat + x.toNat ≤ 0xFFF → ∃ t, exec (.ldRegs x) s = .next t ∧
    (∀ r : Reg, t.reg r = if r.toNat ≤ x.toNat then Memory.read s.mem (s.i.toNat + r.toNat) else s.reg r) ∧
    t.i.toNat = s.i.toNat + x.toNat + 1 ∧
    t.pc = s.pc + 2 ∧ Executed false t ∧ Frame (writtenRegs (.ldRegs x)) [.index] s t

/-- DXYN with N above 0, FX33, FX55 and FX65 fault when the highest address they would access is above 0xFFF, with that address
(the spec's decision D8; as 16 bits, log 8). -/
def Obligations.AccessOutsideMemoryFaults : Prop :=
  ∀ (s : State) (x y : Reg) (n : Nib),
    (0 < n.toNat → 0xFFF < s.i.toNat + n.toNat - 1 →
      exec (.drw x y n) s = .fault (.memoryOutOfRange (BitVec.ofNat 16 (s.i.toNat + n.toNat - 1)))) ∧
    (0xFFF < s.i.toNat + 2 → exec (.ldB x) s = .fault (.memoryOutOfRange (BitVec.ofNat 16 (s.i.toNat + 2)))) ∧
    (0xFFF < s.i.toNat + x.toNat →
      exec (.stRegs x) s = .fault (.memoryOutOfRange (BitVec.ofNat 16 (s.i.toNat + x.toNat))) ∧
      exec (.ldRegs x) s = .fault (.memoryOutOfRange (BitVec.ofNat 16 (s.i.toNat + x.toNat))))

/-- "FX55 then FX65 with identical I and X round-trips register values exactly; I increases by X+1 after each": from any later
state with the memory that FX55 left and I set back, whatever its registers, FX65 gives V0 to VX back. -/
def Obligations.StoreThenLoadGivesRegistersBack : Prop :=
  ∀ (s : State) (x : Reg), s.i.toNat + x.toNat ≤ 0xFFF → ∃ t, exec (.stRegs x) s = .next t ∧
    t.i.toNat = s.i.toNat + x.toNat + 1 ∧
    ∀ u : State, (∀ a, Memory.read u.mem a = Memory.read t.mem a) → u.i = s.i →
      ∃ w, exec (.ldRegs x) u = .next w ∧ (∀ r : Reg, r.toNat ≤ x.toNat → w.reg r = s.reg r) ∧
        w.i.toNat = s.i.toNat + x.toNat + 1

/-- A store into the instruction stream is seen by the very next fetch (the spec's decision D17): after a step that runs FX55
with X at least 1 and I at the following address, the next opcode is V0 and V1. -/
def Obligations.NextFetchSeesTheStore : Prop :=
  ∀ (s t : State) (x : Reg), decode s.fetched = .instr (.stRegs x) → 1 ≤ x.toNat → s.i = s.pc + 2 →
    step s = .next t → t.fetched = wordOfBytes (s.reg v0) (s.reg 0x1#4)

/-! ## Display -/

/-- 00E0 (R180): all 2048 cells 0, the changed flag set even when they were, and VF not written. -/
def Obligations.ClearZeroesEveryCell : Prop :=
  ∀ s : State, ∃ t, exec .cls s = .next t ∧ (∀ x < 64, ∀ y < 32, Display.cell t.disp x y = false) ∧
    t.displayChanged = true ∧ t.pc = s.pc + 2 ∧ Executed true t ∧ Frame [] [.display] s t

/-- DXYN with N = 0 or its last row inside memory, for every X and Y, VF included: a cell selected by a set sprite bit (bit 7
leftmost, the spec's decision D13; coordinates wrapped and read before VF is written, D12) is inverted, every other cell
is unchanged, VF = 1 exactly when a selected cell was 1 before and else 0, and the changed flag is set, also for N = 0 (D12). -/
def Obligations.DrawInvertsTheSelectedCells : Prop :=
  ∀ (s : State) (x y : Reg) (n : Nib), (n.toNat = 0 ∨ s.i.toNat + n.toNat - 1 ≤ 0xFFF) →
    ∃ t, exec (.drw x y n) s = .next t ∧
      (∀ cx < 64, ∀ cy < 32,
        (Selects s.mem s.i.toNat (s.reg x).toNat (s.reg y).toNat n.toNat cx cy →
          Display.cell t.disp cx cy = !Display.cell s.disp cx cy) ∧
        (¬Selects s.mem s.i.toNat (s.reg x).toNat (s.reg y).toNat n.toNat cx cy →
          Display.cell t.disp cx cy = Display.cell s.disp cx cy)) ∧
      (t.reg vf = 1 ∨ t.reg vf = 0) ∧
      (t.reg vf = 1 ↔ ∃ cx cy, Selects s.mem s.i.toNat (s.reg x).toNat (s.reg y).toNat n.toNat cx cy ∧
        Display.cell s.disp cx cy = true) ∧
      t.displayChanged = true ∧ t.pc = s.pc + 2 ∧ Executed true t ∧ Frame [vf] [.display] s t

/-- "Drawing the same sprite twice at the same place restores the display" (R181, corner case e). The second draw reports VF = 1
exactly when some selected cell was 0 before the first: corner case e says "if the sprite has any set bit", which by R181's
own pseudocode holds where a selected cell was 0, and not where all of them were 1 (log 14). -/
def Obligations.DrawingTwiceRestoresTheDisplay : Prop :=
  ∀ (s : State) (x y : Reg) (n : Nib), (n.toNat = 0 ∨ s.i.toNat + n.toNat - 1 ≤ 0xFFF) →
    ∃ t, exec (.drw x y n) s = .next t ∧
      ∀ u : State, u.disp = t.disp → u.i = s.i → u.reg x = s.reg x → u.reg y = s.reg y →
        (∀ a, Memory.read u.mem a = Memory.read s.mem a) →
        ∃ w, exec (.drw x y n) u = .next w ∧ w.disp = s.disp ∧ (w.reg vf = 1 ∨ w.reg vf = 0) ∧
          (w.reg vf = 1 ↔ ∃ cx cy, Selects s.mem s.i.toNat (s.reg x).toNat (s.reg y).toNat n.toNat cx cy ∧
            Display.cell s.disp cx cy = false)

/-! ## Keypad -/

/-- EX9E and EXA1 with VX at most 15: pc + 4 or pc + 2 on the level of the key whose index is VX, and nothing else changes. -/
def Obligations.KeySkipsTestTheKeyOfVx : Prop :=
  ∀ (s : State) (x : Reg) (h : (s.reg x).toNat < 16),
    (∃ t, exec (.skp x) s = .next t ∧
      t.pc = (if s.key[(s.reg x).toNat] = true then s.pc + 4 else s.pc + 2) ∧ Executed false t ∧ Frame [] [] s t) ∧
    (∃ t, exec (.sknp x) s = .next t ∧
      t.pc = (if s.key[(s.reg x).toNat] = true then s.pc + 2 else s.pc + 4) ∧ Executed false t ∧ Frame [] [] s t)

/-- EX9E and EXA1 with VX above 15 fault with VX (the spec's decision D10). -/
def Obligations.KeyIndexAboveFifteenFaults : Prop :=
  ∀ (s : State) (x : Reg), 15 < (s.reg x).toNat →
    exec (.skp x) s = .fault (.keyIndexOutOfRange ((s.reg x).setWidth 16)) ∧
    exec (.sknp x) s = .fault (.keyIndexOutOfRange ((s.reg x).setWidth 16))

/-- FX0A with a key pressed (a level, the spec's decision D29): VX is the least pressed key, pc + 2. -/
def Obligations.WaitTakesTheLeastPressedKey : Prop :=
  ∀ (s : State) (x : Reg) (k : Fin 16), s.key[k.val] = true → (∀ j : Fin 16, j < k → s.key[j.val] = false) →
    ∃ t, exec (.ldVxK x) s = .next t ∧ (t.reg x).toNat = k.val ∧ t.pc = s.pc + 2 ∧
      Executed false t ∧ Frame [x] [] s t

/-- FX0A with no key pressed (R192): "no state changes at all, pc stays at this FX0A", status `NoProgress`. -/
def Obligations.WaitWithoutKeyMakesNoProgress : Prop :=
  ∀ (s : State) (x : Reg), (∀ k : Fin 16, s.key[k.val] = false) →
    exec (.ldVxK x) s = .next { s with result := ⟨false, .noProgress⟩ }

/-! ## Timers -/

/-- FX07 and FX15 (R200, R201). -/
def Obligations.DelayTimerIsReadAndWritten : Prop :=
  ∀ (s : State) (x : Reg),
    (∃ t, exec (.ldVxDt x) s = .next t ∧ t.reg x = s.dt ∧ t.pc = s.pc + 2 ∧ Executed false t ∧ Frame [x] [] s t) ∧
    (∃ t, exec (.ldDtVx x) s = .next t ∧ t.dt = s.reg x ∧ t.pc = s.pc + 2 ∧ Executed false t ∧ Frame [] [.delay] s t)

/-- FX18: ST = VX and nothing else. That it emits no beep, also when 0 is written over 1, is the spec's decision D18: its
only output is the step's result, and the next tick then reports no beep. -/
def Obligations.SoundTimerIsWrittenSilently : Prop :=
  ∀ (s : State) (x : Reg), ∃ t, exec (.ldStVx x) s = .next t ∧ t.st = s.reg x ∧ t.pc = s.pc + 2 ∧
    Executed false t ∧ Frame [] [.sound] s t ∧ (s.reg x = 0 → (tick t).2 = false ∧ (tick t).1.st = 0)

/-- `tick` (R231): each timer goes down by one and stops at 0, independently; nothing else changes; `beep` exactly when ST was 1. -/
def Obligations.TickDecrementsTheTimers : Prop :=
  ∀ s : State, (tick s).1.dt.toNat = s.dt.toNat - 1 ∧ (tick s).1.st.toNat = s.st.toNat - 1 ∧
    (tick s).1 = { s with dt := (tick s).1.dt, st := (tick s).1.st } ∧
    ((tick s).2 = true ↔ s.st.toNat = 1)

/-- n ticks in a row take each timer down by n, never below 0, and report exactly one beep, if ST was above 0 and runs out
within them, else none (R231, R232). -/
def Obligations.TicksRunOutWithOneBeep : Prop :=
  ∀ (font : FontTable) (n : Nat) (s : State),
    (runOps font (List.replicate n .tick) s).1.dt.toNat = s.dt.toNat - n ∧
    (runOps font (List.replicate n .tick) s).1.st.toNat = s.st.toNat - n ∧
    (runOps font (List.replicate n .tick) s).2.count (.ticked true) =
      if 0 < s.st.toNat ∧ s.st.toNat ≤ n then 1 else 0

/-! ## The host's operations -/

/-- `load_rom` (R263; its details are the spec's decision D28): a payload of at most 0xE00 bytes is copied from 0x200 up, and no
other byte and nothing else changes; a longer one is refused with no change at all. -/
def Obligations.LoadRomCopiesOrRefuses : Prop :=
  ∀ (s : State) (bytes : List Byte),
    (bytes.length ≤ 0xE00 →
      (loadRom s bytes).2 = .ok ∧ (loadRom s bytes).1 = { s with mem := (loadRom s bytes).1.mem } ∧
      (∀ k < bytes.length, Memory.read (loadRom s bytes).1.mem (0x200 + k) = bytes.getD k 0) ∧
      (∀ a, a < 0x200 ∨ 0x200 + bytes.length ≤ a →
        Memory.read (loadRom s bytes).1.mem a = Memory.read s.mem a)) ∧
    (0xE00 < bytes.length → loadRom s bytes = (s, .romTooLarge))

/-- `set_key(k, pressed)` changes `key[k]` alone, and `render_ack()` clears the sticky flag alone (R236, R238; their names and
shapes are the spec's decision D21). -/
def Obligations.SetKeyAndRenderAckTouchOneField : Prop :=
  ∀ (s : State) (k : Fin 16) (p : Bool),
    (∀ j : Fin 16, (setKey s k p).key[j.val] = if j = k then p else s.key[j.val]) ∧
    setKey s k p = { s with key := (setKey s k p).key } ∧
    renderAck s = { s with displayChanged := false }

/-- A faulting step changes nothing, and faults again with the same cause and info after any tick, key change, render
acknowledgement or further step (R222, the spec's decision D19). -/
def Obligations.FaultRepeatsUntilStateChanges : Prop :=
  ∀ (s : State) (f : Fault), step s = .fault f →
    (∀ b, stepOp b s = (s, .faulted f)) ∧ step (tick s).1 = .fault f ∧
    (∀ k p, step (setKey s k p) = .fault f) ∧ step (renderAck s) = .fault f

/-- A finished program (R272, the spec's decision D27) stays finished: every step completes and changes nothing but the model's
own fields (log 1, log 3), so every run of steps from it is safe. -/
def Obligations.FinishedProgramStaysFinished : Prop :=
  ∀ s : State, Finished s →
    (∃ t, step s = .next t ∧ Finished t ∧
      t = { s with result := ⟨false, .executed⟩, randSupply := s.randSupply.tail, draws := s.draws + 1 }) ∧
    ∀ n, SafeRun n s
end

