-- ==== Sys2Proof/Laws/Display.lean ====
section
/-! SUPPORT. What the drawing operations do to a cell, said once for a flip, a sprite row and a whole sprite
(44_display.md R181 to R183). -/

namespace Sys2Proof.Machine

theorem cellNumber_lt {x y : Nat} (hx : x < 64) (hy : y < 32) : cellNumber x y < 2048 := by
  simp only [cellNumber]; omega

/-- Different cells have different numbers (R33). -/
theorem cellNumber_inj {x y x' y' : Nat} (hx : x < 64) (hx' : x' < 64) (h : cellNumber x y = cellNumber x' y') :
    x = x' ∧ y = y' := by
  simp only [cellNumber] at h; omega

/-- A flip inverts its own cell and no other. -/
theorem Display.cell_flip (d : Display) {x y x' y' : Nat} (hx : x < 64) (hy : y < 32) (hx' : x' < 64) :
    Display.cell (Display.flip d x y) x' y' = (Display.cell d x' y' ^^ decide (x' = x ∧ y' = y)) := by
  simp only [Display.cell, Display.flip, BitVec.getLsbD_xor, BitVec.getLsbD_twoPow]
  by_cases h : x' = x ∧ y' = y
  · obtain ⟨rfl, rfl⟩ := h
    simp [cellNumber_lt hx hy]
  · have : ¬ cellNumber x y = cellNumber x' y' := fun e => h ⟨(cellNumber_inj hx hx' e).1.symm, (cellNumber_inj hx hx' e).2.symm⟩
    simp [this, h]

/-- The cells selected by the first n columns of one sprite row (R182). -/
def RowSelects (b : Byte) (x0 y0 n x y : Nat) : Prop :=
  ∃ c < n, b.getLsbD (7 - c) = true ∧ x = (x0 + c) % 64 ∧ y = y0 % 32

theorem rowSelects_succ {b : Byte} {x0 y0 n x y : Nat} :
    RowSelects b x0 y0 (n + 1) x y ↔
      RowSelects b x0 y0 n x y ∨ (b.getLsbD (7 - n) = true ∧ x = (x0 + n) % 64 ∧ y = y0 % 32) := by
  constructor
  · rintro ⟨c, hc, h⟩
    by_cases hcn : c = n
    · exact .inr (hcn ▸ h)
    · exact .inl ⟨c, by omega, h⟩
  · rintro (⟨c, hc, h⟩ | h)
    · exact ⟨c, by omega, h⟩
    · exact ⟨n, by omega, h⟩

open Classical in
/-- Everything a sprite row does: the selected cells are inverted, no other cell changes, and the collision flag is set when
a selected cell was 1. -/
theorem drawCols_spec (b : Byte) (x0 y0 n : Nat) (hn : n ≤ 8) (g : Drawing) :
    (∀ x y, x < 64 → Display.cell (drawCols b x0 y0 n g).disp x y =
      (Display.cell g.disp x y ^^ decide (RowSelects b x0 y0 n x y))) ∧
    ((drawCols b x0 y0 n g).collision = true ↔
      g.collision = true ∨ ∃ x y, RowSelects b x0 y0 n x y ∧ Display.cell g.disp x y = true) := by
  induction n with
  | zero => simp [drawCols, RowSelects]
  | succ n ih =>
    obtain ⟨ihc, ihf⟩ := ih (by omega)
    have hnew : ¬ RowSelects b x0 y0 n ((x0 + n) % 64) (y0 % 32) := by
      rintro ⟨c, hc, -, hx, -⟩
      omega
    simp only [drawCols]
    by_cases hb : b.getLsbD (7 - n) = true
    · rw [if_pos hb]
      refine ⟨fun x y hx => ?_, ?_⟩
      · simp only [Drawing.plot]
        rw [Display.cell_flip _ (Nat.mod_lt _ (by omega)) (Nat.mod_lt _ (by omega)) hx, ihc x y hx]
        by_cases h : x = (x0 + n) % 64 ∧ y = y0 % 32
        · obtain ⟨rfl, rfl⟩ := h
          have : RowSelects b x0 y0 (n + 1) ((x0 + n) % 64) (y0 % 32) := rowSelects_succ.mpr (.inr ⟨hb, rfl, rfl⟩)
          simp [hnew, this]
        · have : RowSelects b x0 y0 (n + 1) x y ↔ RowSelects b x0 y0 n x y := by
            rw [rowSelects_succ]; constructor
            · rintro (h' | h')
              · exact h'
              · exact absurd h'.2 h
            · exact .inl
          simp [this, h]
      · simp only [Drawing.plot, Bool.or_eq_true, ihf, ihc _ (y0 % 32) (Nat.mod_lt (x0 + n) (by omega : 64 > 0))]
        simp only [hnew, decide_false, Bool.xor_false]
        constructor
        · rintro ((h | ⟨x, y, h, hc⟩) | h)
          · exact .inl h
          · exact .inr ⟨x, y, rowSelects_succ.mpr (.inl h), hc⟩
          · exact .inr ⟨_, _, rowSelects_succ.mpr (.inr ⟨hb, rfl, rfl⟩), h⟩
        · rintro (h | ⟨x, y, h, hc⟩)
          · exact .inl (.inl h)
          · rcases rowSelects_succ.mp h with h | ⟨-, rfl, rfl⟩
            · exact .inl (.inr ⟨x, y, h, hc⟩)
            · exact .inr hc
    · rw [if_neg hb]
      have hsame : ∀ x y, RowSelects b x0 y0 (n + 1) x y ↔ RowSelects b x0 y0 n x y := fun x y => by
        rw [rowSelects_succ]; constructor
        · rintro (h | h)
          · exact h
          · exact absurd h.1 hb
        · exact .inl
      refine ⟨fun x y hx => ?_, ?_⟩
      · simp [ihc x y hx, hsame]
      · simp [ihf, hsame]

theorem selects_succ {m : Memory} {base x0 y0 n x y : Nat} :
    Selects m base x0 y0 (n + 1) x y ↔
      Selects m base x0 y0 n x y ∨ RowSelects (Memory.read m (base + n)) x0 (y0 + n) 8 x y := by
  constructor
  · rintro ⟨r, hr, c, hc, h⟩
    by_cases hrn : r = n
    · subst hrn; exact .inr ⟨c, hc, h⟩
    · exact .inl ⟨r, by omega, c, hc, h⟩
  · rintro (⟨r, hr, h⟩ | ⟨c, hc, h⟩)
    · exact ⟨r, by omega, h⟩
    · exact ⟨n, by omega, c, hc, h⟩

open Classical in
/-- Everything a sprite of at most 32 rows does (R181, R183): the selected cells are inverted, no other cell changes, and the
collision flag is set exactly when a selected cell was 1 before. No cell is touched twice. -/
theorem drawRows_spec (m : Memory) (base x0 y0 n : Nat) (hn : n ≤ 32) (g : Drawing) :
    (∀ x y, x < 64 → Display.cell (drawRows m base x0 y0 n g).disp x y =
      (Display.cell g.disp x y ^^ decide (Selects m base x0 y0 n x y))) ∧
    ((drawRows m base x0 y0 n g).collision = true ↔
      g.collision = true ∨ ∃ x y, Selects m base x0 y0 n x y ∧ Display.cell g.disp x y = true) := by
  induction n with
  | zero => simp [drawRows, Selects]
  | succ n ih =>
    obtain ⟨ihc, ihf⟩ := ih (by omega)
    obtain ⟨hc, hf⟩ := drawCols_spec (Memory.read m (base + n)) x0 (y0 + n) 8 (by omega) (drawRows m base x0 y0 n g)
    have hdisj : ∀ x y, RowSelects (Memory.read m (base + n)) x0 (y0 + n) 8 x y → ¬ Selects m base x0 y0 n x y := by
      rintro x y ⟨c, _, _, _, hy⟩ ⟨r, hr, c', _, _, _, hy'⟩
      omega
    simp only [drawRows]
    refine ⟨fun x y hx => ?_, ?_⟩
    · rw [hc x y hx, ihc x y hx]
      by_cases h : RowSelects (Memory.read m (base + n)) x0 (y0 + n) 8 x y
      · have hs : Selects m base x0 y0 (n + 1) x y := selects_succ.mpr (.inr h)
        simp [h, hs, hdisj x y h]
      · have hs : Selects m base x0 y0 (n + 1) x y ↔ Selects m base x0 y0 n x y := by
          rw [selects_succ]; exact ⟨fun h' => h'.resolve_right h, .inl⟩
        simp [h, hs]
    · rw [hf, ihf]
      constructor
      · rintro ((h | ⟨x, y, h, hd⟩) | ⟨x, y, h, hd⟩)
        · exact .inl h
        · exact .inr ⟨x, y, selects_succ.mpr (.inl h), hd⟩
        · refine .inr ⟨x, y, selects_succ.mpr (.inr h), ?_⟩
          have hx : x < 64 := by obtain ⟨c, _, _, rfl, _⟩ := h; omega
          rw [ihc x y hx] at hd
          simpa [hdisj x y h] using hd
      · rintro (h | ⟨x, y, h, hd⟩)
        · exact .inl (.inl h)
        · rcases selects_succ.mp h with h | h
          · exact .inl (.inr ⟨x, y, h, hd⟩)
          · refine .inr ⟨x, y, h, ?_⟩
            have hx : x < 64 := by obtain ⟨c, _, _, rfl, _⟩ := h; omega
            rw [ihc x y hx]
            simpa [hdisj x y h] using hd

end Sys2Proof.Machine
end

