-- ==== Sys2Proof/Laws/Encoding.lean ====
section
/-! SUPPORT. The bits of an encoded word, the fields read back from it, and what the three masks of 30_encoding.md R72 leave of
it. -/

namespace Sys2Proof

/-- The bits of F ‖ NNN. -/
theorem getLsbD_wordAddr (f : BitVec 4) (nnn : Addr) (i : Nat) :
    (wordAddr f nnn).getLsbD i = if i < 12 then nnn.getLsbD i else f.getLsbD (i - 12) := BitVec.getLsbD_append

/-- The bits of F ‖ X ‖ NN. -/
theorem getLsbD_wordRegByte (f : BitVec 4) (x : Reg) (nn : Byte) (i : Nat) :
    (wordRegByte f x nn).getLsbD i =
      if i < 8 then nn.getLsbD i else if i < 12 then x.getLsbD (i - 8) else f.getLsbD (i - 12) := by
  refine (getLsbD_wordAddr f (x ++ nn) i).trans ?_
  have h : (x ++ nn : BitVec 12).getLsbD i = if i < 8 then nn.getLsbD i else x.getLsbD (i - 8) := BitVec.getLsbD_append
  rw [h]
  by_cases h8 : i < 8
  · simp [h8, show i < 12 by omega]
  · by_cases h12 : i < 12 <;> simp [h8, h12]

/-- The bits of F ‖ X ‖ Y ‖ N. -/
theorem getLsbD_wordRegReg (f : BitVec 4) (x y : Reg) (n : Nib) (i : Nat) :
    (wordRegReg f x y n).getLsbD i =
      if i < 4 then n.getLsbD i else if i < 8 then y.getLsbD (i - 4)
      else if i < 12 then x.getLsbD (i - 8) else f.getLsbD (i - 12) := by
  refine (getLsbD_wordRegByte f x (y ++ n) i).trans ?_
  have h : (y ++ n : BitVec 8).getLsbD i = if i < 4 then n.getLsbD i else y.getLsbD (i - 4) := BitVec.getLsbD_append
  rw [h]
  by_cases h4 : i < 4
  · simp [h4, show i < 8 by omega]
  · by_cases h8 : i < 8 <;> simp [h4, h8]

theorem fieldNNN_wordAddr (f : BitVec 4) (nnn : Addr) : fieldNNN (wordAddr f nnn) = nnn := by
  apply BitVec.eq_of_getLsbD_eq
  intro i hi
  simp [fieldNNN, getLsbD_wordAddr, hi]

theorem fieldX_wordRegByte (f : BitVec 4) (x : Reg) (nn : Byte) : fieldX (wordRegByte f x nn) = x := by
  apply BitVec.eq_of_getLsbD_eq
  intro i hi
  have h : 8 + i < 12 := by omega
  simp [fieldX, getLsbD_wordRegByte, hi, h]

theorem fieldNN_wordRegByte (f : BitVec 4) (x : Reg) (nn : Byte) : fieldNN (wordRegByte f x nn) = nn := by
  apply BitVec.eq_of_getLsbD_eq
  intro i hi
  simp [fieldNN, getLsbD_wordRegByte, hi]

theorem fieldY_wordRegReg (f : BitVec 4) (x y : Reg) (n : Nib) : fieldY (wordRegReg f x y n) = y := by
  apply BitVec.eq_of_getLsbD_eq
  intro i hi
  have h : 4 + i < 8 := by omega
  simp [fieldY, getLsbD_wordRegReg, hi, h]

theorem fieldN_wordRegReg (f : BitVec 4) (x y : Reg) (n : Nib) : fieldN (wordRegReg f x y n) = n := by
  apply BitVec.eq_of_getLsbD_eq
  intro i hi
  simp [fieldN, getLsbD_wordRegReg, hi]

theorem fieldX_wordRegReg (f : BitVec 4) (x y : Reg) (n : Nib) : fieldX (wordRegReg f x y n) = x :=
  fieldX_wordRegByte f x (y ++ n)

/-- The mask 0xF000 leaves the family (R72). -/
theorem mask_wordAddr (f : BitVec 4) (nnn : Addr) : wordAddr f nnn &&& 0xF000#16 = wordAddr f 0#12 := by
  apply BitVec.eq_of_getLsbD_eq
  intro i hi
  rw [BitVec.getLsbD_and, getLsbD_wordAddr, getLsbD_wordAddr]
  interval_cases i <;> simp

theorem mask_wordRegByte (f : BitVec 4) (x : Reg) (nn : Byte) : wordRegByte f x nn &&& 0xF000#16 = wordAddr f 0#12 :=
  mask_wordAddr f (x ++ nn)

/-- The mask 0xF0FF leaves the family and NN (R72). -/
theorem maskSub_wordRegByte (f : BitVec 4) (x : Reg) (nn : Byte) :
    wordRegByte f x nn &&& 0xF0FF#16 = wordRegByte f 0#4 nn := by
  apply BitVec.eq_of_getLsbD_eq
  intro i hi
  rw [BitVec.getLsbD_and, getLsbD_wordRegByte, getLsbD_wordRegByte]
  interval_cases i <;> simp

/-- The mask 0xF00F leaves the family and N (R72). -/
theorem maskSub_wordRegReg (f : BitVec 4) (x y : Reg) (n : Nib) :
    wordRegReg f x y n &&& 0xF00F#16 = wordRegReg f 0#4 0#4 n := by
  apply BitVec.eq_of_getLsbD_eq
  intro i hi
  rw [BitVec.getLsbD_and, getLsbD_wordRegReg, getLsbD_wordRegReg]
  interval_cases i <;> simp

theorem mask_wordRegReg (f : BitVec 4) (x y : Reg) (n : Nib) : wordRegReg f x y n &&& 0xF000#16 = wordAddr f 0#12 :=
  mask_wordAddr f (x ++ (y ++ n : BitVec 8))

/-! ## The converse: a word that a mask leaves as a row's pattern is the word of its own fields -/

theorem wordAddr_fieldNNN {w : Word} {f : BitVec 4} (h : w &&& 0xF000#16 = wordAddr f 0#12) :
    wordAddr f (fieldNNN w) = w := by
  apply BitVec.eq_of_getLsbD_eq
  intro i hi
  have hb := congrArg (fun v : Word => v.getLsbD i) h
  simp only [BitVec.getLsbD_and, getLsbD_wordAddr] at hb
  rw [getLsbD_wordAddr]
  interval_cases i <;> simp_all [fieldNNN]

theorem wordRegByte_fields {w : Word} {f : BitVec 4} (h : w &&& 0xF000#16 = wordAddr f 0#12) :
    wordRegByte f (fieldX w) (fieldNN w) = w := by
  apply BitVec.eq_of_getLsbD_eq
  intro i hi
  have hb := congrArg (fun v : Word => v.getLsbD i) h
  simp only [BitVec.getLsbD_and, getLsbD_wordAddr] at hb
  rw [getLsbD_wordRegByte]
  interval_cases i <;> simp_all [fieldX, fieldNN]

theorem wordRegReg_fields {w : Word} {f : BitVec 4} (h : w &&& 0xF000#16 = wordAddr f 0#12) :
    wordRegReg f (fieldX w) (fieldY w) (fieldN w) = w := by
  apply BitVec.eq_of_getLsbD_eq
  intro i hi
  have hb := congrArg (fun v : Word => v.getLsbD i) h
  simp only [BitVec.getLsbD_and, getLsbD_wordAddr] at hb
  rw [getLsbD_wordRegReg]
  interval_cases i <;> simp_all [fieldX, fieldY, fieldN]

theorem wordRegByte_fieldX {w : Word} {f : BitVec 4} {nn : Byte} (h : w &&& 0xF0FF#16 = wordRegByte f 0#4 nn) :
    wordRegByte f (fieldX w) nn = w := by
  apply BitVec.eq_of_getLsbD_eq
  intro i hi
  have hb := congrArg (fun v : Word => v.getLsbD i) h
  simp only [BitVec.getLsbD_and, getLsbD_wordRegByte] at hb
  rw [getLsbD_wordRegByte]
  interval_cases i <;> simp_all [fieldX]

theorem wordRegReg_fieldXY {w : Word} {f : BitVec 4} {n : Nib} (h : w &&& 0xF00F#16 = wordRegReg f 0#4 0#4 n) :
    wordRegReg f (fieldX w) (fieldY w) n = w := by
  apply BitVec.eq_of_getLsbD_eq
  intro i hi
  have hb := congrArg (fun v : Word => v.getLsbD i) h
  simp only [BitVec.getLsbD_and, getLsbD_wordRegReg] at hb
  rw [getLsbD_wordRegReg]
  interval_cases i <;> simp_all [fieldX, fieldY]

end Sys2Proof
end

