-- ==== Sys2Proof/Laws/Memory.lean ====
section
/-! SUPPORT. What the memory operations do: a read after a write, a write leaves every other byte alone, every write keeps the
canonical form, and canonical memories with equal reads are equal. -/

namespace Sys2Proof.Machine

theorem Memory.lookup_insert (a : Nat) (b : Byte) (m : Memory) (c : Nat) :
    Memory.lookup (Memory.insert a b m) c = if c = a then some b else Memory.lookup m c := by
  induction m with
  | nil => by_cases h : a = c <;> simp [Memory.insert, Memory.lookup, h, eq_comm]
  | cons e rest ih =>
    obtain ⟨k, v⟩ := e
    simp only [Memory.insert]
    split
    · by_cases h : c = a
      · simp [Memory.lookup, h]
      · simp [Memory.lookup, h, Ne.symm h]
    · split
      · rename_i hk
        subst hk
        by_cases h : c = a
        · simp [Memory.lookup, h]
        · simp [Memory.lookup, h, Ne.symm h]
      · rename_i hk
        by_cases hc : k = c
        · subst hc; simp [Memory.lookup, Ne.symm hk]
        · simp [Memory.lookup, hc, ih]

theorem Memory.lookup_erase (a : Nat) (m : Memory) (c : Nat) :
    Memory.lookup (Memory.erase a m) c = if c = a then none else Memory.lookup m c := by
  induction m with
  | nil => simp [Memory.erase, Memory.lookup]
  | cons e rest ih =>
    obtain ⟨k, v⟩ := e
    have hstep : Memory.erase a ((k, v) :: rest) =
        if k = a then Memory.erase a rest else (k, v) :: Memory.erase a rest := by
      by_cases h : k = a <;> simp [Memory.erase, h]
    rw [hstep]
    by_cases hk : k = a
    · subst hk
      by_cases hc : c = k
      · rw [if_pos rfl, ih, if_pos hc, if_pos hc]
      · simp [ih, hc, Memory.lookup, Ne.symm hc]
    · by_cases hc : k = c
      · subst hc; simp [Memory.lookup, hk]
      · simp [Memory.lookup, hk, hc, ih]

/-- A read after a write: the byte written at its own address, the old byte at every other (R10, R57). -/
theorem Memory.read_write (m : Memory) (a : Nat) (b : Byte) (c : Nat) :
    Memory.read (Memory.write m a b) c = if c = a then b else Memory.read m c := by
  unfold Memory.read Memory.write
  split
  · rename_i hb
    by_cases hc : c = a <;> simp [Memory.lookup_erase, hc, hb]
  · by_cases hc : c = a <;> simp [Memory.lookup_insert, hc]

@[simp] theorem Memory.read_write_same (m : Memory) (a : Nat) (b : Byte) :
    Memory.read (Memory.write m a b) a = b := by simp [Memory.read_write]

theorem Memory.read_write_other (m : Memory) (a : Nat) (b : Byte) {c : Nat} (h : c ≠ a) :
    Memory.read (Memory.write m a b) c = Memory.read m c := by simp [Memory.read_write, h]

/-- Everything a sequence of writes does: the k-th byte at a + k, and nothing else (R52, R54). -/
theorem Memory.read_writeBytes (m : Memory) (a : Nat) (bs : List Byte) (c : Nat) :
    Memory.read (Memory.writeBytes m a bs) c =
      if a ≤ c ∧ c < a + bs.length then bs.getD (c - a) 0 else Memory.read m c := by
  induction bs generalizing m a with
  | nil => simp [Memory.writeBytes]
  | cons b rest ih =>
    rw [Memory.writeBytes, ih, Memory.read_write]
    by_cases hc : c = a
    · subst hc; simp
    · by_cases hr : a + 1 ≤ c ∧ c < a + 1 + rest.length
      · have h1 : a ≤ c ∧ c < a + (b :: rest).length := by simp; omega
        have h2 : c - a = (c - (a + 1)) + 1 := by omega
        rw [if_pos hr, if_pos h1, h2, List.getD_cons_succ]
      · have h1 : ¬ (a ≤ c ∧ c < a + (b :: rest).length) := by simp; omega
        rw [if_neg hr, if_neg h1, if_neg hc]

theorem Memory.read_writeBytes_outside (m : Memory) (a : Nat) (bs : List Byte) {c : Nat}
    (h : c < a ∨ a + bs.length ≤ c) : Memory.read (Memory.writeBytes m a bs) c = Memory.read m c := by
  rw [Memory.read_writeBytes, if_neg (by omega)]

/-! ## The canonical form -/

theorem Memory.wf_cons {a : Nat} {b : Byte} {rest : Memory} :
    Memory.wf ((a, b) :: rest) = true ↔
      a < memorySize ∧ b ≠ resetByte a ∧ (∀ c ∈ rest, a < c.1) ∧ Memory.wf rest = true := by
  simp [Memory.wf, and_assoc]

theorem Memory.mem_insert {a : Nat} {b : Byte} {m : Memory} {c : Host.Cell} (h : c ∈ Memory.insert a b m) :
    c = (a, b) ∨ c ∈ m := by
  induction m with
  | nil => exact .inl (by simpa [Memory.insert] using h)
  | cons e rest ih =>
    obtain ⟨k, v⟩ := e
    simp only [Memory.insert] at h
    split at h
    · simpa using h
    · split at h
      · rcases List.mem_cons.mp h with h | h
        · exact .inl h
        · exact .inr (List.mem_cons_of_mem _ h)
      · rcases List.mem_cons.mp h with h | h
        · exact .inr (h ▸ List.mem_cons_self)
        · rcases ih h with h | h
          · exact .inl h
          · exact .inr (List.mem_cons_of_mem _ h)

theorem Memory.wf_insert {a : Nat} {b : Byte} {m : Memory} (ha : a < memorySize) (hb : b ≠ resetByte a)
    (h : Memory.wf m = true) : Memory.wf (Memory.insert a b m) = true := by
  induction m with
  | nil => simp [Memory.insert, Memory.wf, ha, hb]
  | cons e rest ih =>
    obtain ⟨k, v⟩ := e
    obtain ⟨hk, hv, hall, hrest⟩ := Memory.wf_cons.mp h
    simp only [Memory.insert]
    split
    · rename_i hlt
      refine Memory.wf_cons.mpr ⟨ha, hb, fun c hc => ?_, h⟩
      rcases List.mem_cons.mp hc with rfl | hc
      · exact hlt
      · exact Nat.lt_trans hlt (hall c hc)
    · split
      · rename_i heq
        subst heq
        exact Memory.wf_cons.mpr ⟨ha, hb, hall, hrest⟩
      · refine Memory.wf_cons.mpr ⟨hk, hv, fun c hc => ?_, ih hrest⟩
        rcases Memory.mem_insert hc with rfl | hc
        · show k < a; omega
        · exact hall c hc

theorem Memory.wf_erase {a : Nat} {m : Memory} (h : Memory.wf m = true) :
    Memory.wf (Memory.erase a m) = true := by
  induction m with
  | nil => simp [Memory.erase, Memory.wf]
  | cons e rest ih =>
    obtain ⟨k, v⟩ := e
    obtain ⟨hk, hv, hall, hrest⟩ := Memory.wf_cons.mp h
    by_cases hka : k = a
    · simpa [Memory.erase, hka] using ih hrest
    · have : Memory.erase a ((k, v) :: rest) = (k, v) :: Memory.erase a rest := by simp [Memory.erase, hka]
      rw [this]
      exact Memory.wf_cons.mpr ⟨hk, hv, fun c hc => hall c (List.mem_filter.mp hc).1, ih hrest⟩

/-- A write inside the address space keeps the canonical form. -/
theorem Memory.wf_write {a : Nat} {m : Memory} (b : Byte) (ha : a < memorySize) (h : Memory.wf m = true) :
    Memory.wf (Memory.write m a b) = true := by
  unfold Memory.write
  split
  · exact Memory.wf_erase h
  · exact Memory.wf_insert ha (by assumption) h

/-- A sequence of writes inside the address space keeps the canonical form. -/
theorem Memory.wf_writeBytes {a : Nat} {m : Memory} (bs : List Byte) (ha : a + bs.length ≤ memorySize)
    (h : Memory.wf m = true) : Memory.wf (Memory.writeBytes m a bs) = true := by
  induction bs generalizing m a with
  | nil => exact h
  | cons b rest ih =>
    simp only [List.length_cons] at ha
    exact ih (by omega) (Memory.wf_write b (by omega) h)

/-- In a canonical memory an entry is what its address reads as. -/
theorem Memory.lookup_of_forall_lt {m : Memory} {a : Nat} (h : ∀ c ∈ m, a < c.1) : Memory.lookup m a = none := by
  induction m with
  | nil => rfl
  | cons e rest ih =>
    obtain ⟨k, v⟩ := e
    have hk : a < k := h (k, v) List.mem_cons_self
    simp only [Memory.lookup]
    rw [if_neg (by omega), ih (fun c hc => h c (List.mem_cons_of_mem _ hc))]

/-- Canonical memories that read the same everywhere are the same list: equal memories are equal data. -/
theorem Memory.eq_of_read_eq {m n : Memory} (hm : Memory.wf m = true) (hn : Memory.wf n = true)
    (h : ∀ a, Memory.read m a = Memory.read n a) : m = n := by
  induction m generalizing n with
  | nil =>
    cases n with
    | nil => rfl
    | cons e rest =>
      obtain ⟨k, v⟩ := e
      have hv := (Memory.wf_cons.mp hn).2.1
      have := h k
      simp [Memory.read, Memory.lookup] at this
      exact absurd this.symm hv
  | cons e rest ih =>
    obtain ⟨k, v⟩ := e
    obtain ⟨_, hv, hall, hrest⟩ := Memory.wf_cons.mp hm
    cases n with
    | nil =>
      have := h k
      simp [Memory.read, Memory.lookup] at this
      exact absurd this hv
    | cons f rest' =>
      obtain ⟨k', v'⟩ := f
      obtain ⟨_, hv', hall', hrest'⟩ := Memory.wf_cons.mp hn
      have hkk : k = k' := by
        rcases Nat.lt_trichotomy k k' with hlt | heq | hgt
        · have hnone : Memory.lookup ((k', v') :: rest') k = none := Memory.lookup_of_forall_lt (fun c hc => by
            rcases List.mem_cons.mp hc with rfl | hc
            · exact hlt
            · exact Nat.lt_trans hlt (hall' c hc))
          have := h k
          simp only [Memory.read, hnone] at this
          simp [Memory.lookup] at this
          exact absurd this hv
        · exact heq
        · have hnone : Memory.lookup ((k, v) :: rest) k' = none := Memory.lookup_of_forall_lt (fun c hc => by
            rcases List.mem_cons.mp hc with rfl | hc
            · exact hgt
            · exact Nat.lt_trans hgt (hall c hc))
          have := h k'
          simp only [Memory.read, hnone] at this
          simp [Memory.lookup] at this
          exact absurd this.symm hv'
      subst hkk
      have hvv : v = v' := by simpa [Memory.read, Memory.lookup] using h k
      subst hvv
      have : rest = rest' := ih hrest hrest' (fun a => by
        by_cases ha : k = a
        · subst ha
          simp only [Memory.read, Memory.lookup_of_forall_lt hall, Memory.lookup_of_forall_lt hall']
        · simpa [Memory.read, Memory.lookup, ha] using h a)
      rw [this]

/-! ## The memory after reset (R30, R260) -/

/-- Past the default table an unlisted address reads as 0. -/
theorem resetByte_of_le {a : Nat} (h : 80 ≤ a) : resetByte a = 0 := List.getD_eq_default _ _ h

/-- Everything the memory after reset holds: FONT, then zeros. -/
theorem Memory.read_fontMemory (font : FontTable) (a : Nat) :
    Memory.read (fontMemory font) a = if h : a < 80 then font[a] else 0 := by
  rw [fontMemory, Memory.read_writeBytes]
  by_cases h : a < 80
  · simp [h]
  · have h0 : Memory.read [] a = resetByte a := rfl
    simp [h, h0, resetByte_of_le (Nat.le_of_not_lt h)]

theorem Memory.wf_fontMemory (font : FontTable) : Memory.wf (fontMemory font) = true :=
  Memory.wf_writeBytes _ (by simp [memorySize]) rfl

/-- Under the default FONT nothing is listed, so `State.reset` is `State.resetWith defaultFont`. -/
theorem fontMemory_default : fontMemory defaultFont = [] :=
  Memory.eq_of_read_eq (Memory.wf_fontMemory _) rfl (fun a => by
    have h0 : Memory.read [] a = resetByte a := rfl
    rw [Memory.read_fontMemory, h0]
    split
    · rename_i h
      exact (List.getD_eq_getElem defaultFontBytes 0 (show a < defaultFontBytes.length from h)).symm
    · rename_i h
      exact (resetByte_of_le (Nat.le_of_not_lt h)).symm)

end Sys2Proof.Machine
end

