-- ==== Sys2Proof/Laws/State.lean ====
section
/-! SUPPORT. One lemma per field per update of State, true by rfl, so that no later proof unfolds a record update; and the
register reads after each update. -/

namespace Sys2Proof.Machine

variable (s : State)

/-! ### setReg -/

@[simp] theorem State.setReg_v (x : Reg) (b : Byte) : (s.setReg x b).v = s.v.set x.toNat b x.isLt := rfl
@[simp] theorem State.setReg_i (x : Reg) (b : Byte) : (s.setReg x b).i = s.i := rfl
@[simp] theorem State.setReg_pc (x : Reg) (b : Byte) : (s.setReg x b).pc = s.pc := rfl
@[simp] theorem State.setReg_sp (x : Reg) (b : Byte) : (s.setReg x b).sp = s.sp := rfl
@[simp] theorem State.setReg_stack (x : Reg) (b : Byte) : (s.setReg x b).stack = s.stack := rfl
@[simp] theorem State.setReg_dt (x : Reg) (b : Byte) : (s.setReg x b).dt = s.dt := rfl
@[simp] theorem State.setReg_st (x : Reg) (b : Byte) : (s.setReg x b).st = s.st := rfl
@[simp] theorem State.setReg_key (x : Reg) (b : Byte) : (s.setReg x b).key = s.key := rfl
@[simp] theorem State.setReg_mem (x : Reg) (b : Byte) : (s.setReg x b).mem = s.mem := rfl
@[simp] theorem State.setReg_disp (x : Reg) (b : Byte) : (s.setReg x b).disp = s.disp := rfl
@[simp] theorem State.setReg_displayChanged (x : Reg) (b : Byte) : (s.setReg x b).displayChanged = s.displayChanged := rfl
@[simp] theorem State.setReg_result (x : Reg) (b : Byte) : (s.setReg x b).result = s.result := rfl
@[simp] theorem State.setReg_randSupply (x : Reg) (b : Byte) : (s.setReg x b).randSupply = s.randSupply := rfl
@[simp] theorem State.setReg_draws (x : Reg) (b : Byte) : (s.setReg x b).draws = s.draws := rfl

/-! ### setRegs -/

@[simp] theorem State.setRegs_v (v : Regs) : (s.setRegs v).v = v := rfl
@[simp] theorem State.setRegs_i (v : Regs) : (s.setRegs v).i = s.i := rfl
@[simp] theorem State.setRegs_pc (v : Regs) : (s.setRegs v).pc = s.pc := rfl
@[simp] theorem State.setRegs_sp (v : Regs) : (s.setRegs v).sp = s.sp := rfl
@[simp] theorem State.setRegs_stack (v : Regs) : (s.setRegs v).stack = s.stack := rfl
@[simp] theorem State.setRegs_dt (v : Regs) : (s.setRegs v).dt = s.dt := rfl
@[simp] theorem State.setRegs_st (v : Regs) : (s.setRegs v).st = s.st := rfl
@[simp] theorem State.setRegs_key (v : Regs) : (s.setRegs v).key = s.key := rfl
@[simp] theorem State.setRegs_mem (v : Regs) : (s.setRegs v).mem = s.mem := rfl
@[simp] theorem State.setRegs_disp (v : Regs) : (s.setRegs v).disp = s.disp := rfl
@[simp] theorem State.setRegs_displayChanged (v : Regs) : (s.setRegs v).displayChanged = s.displayChanged := rfl
@[simp] theorem State.setRegs_result (v : Regs) : (s.setRegs v).result = s.result := rfl
@[simp] theorem State.setRegs_randSupply (v : Regs) : (s.setRegs v).randSupply = s.randSupply := rfl
@[simp] theorem State.setRegs_draws (v : Regs) : (s.setRegs v).draws = s.draws := rfl

/-! ### setI -/

@[simp] theorem State.setI_v (w : Word) : (s.setI w).v = s.v := rfl
@[simp] theorem State.setI_i (w : Word) : (s.setI w).i = w := rfl
@[simp] theorem State.setI_pc (w : Word) : (s.setI w).pc = s.pc := rfl
@[simp] theorem State.setI_sp (w : Word) : (s.setI w).sp = s.sp := rfl
@[simp] theorem State.setI_stack (w : Word) : (s.setI w).stack = s.stack := rfl
@[simp] theorem State.setI_dt (w : Word) : (s.setI w).dt = s.dt := rfl
@[simp] theorem State.setI_st (w : Word) : (s.setI w).st = s.st := rfl
@[simp] theorem State.setI_key (w : Word) : (s.setI w).key = s.key := rfl
@[simp] theorem State.setI_mem (w : Word) : (s.setI w).mem = s.mem := rfl
@[simp] theorem State.setI_disp (w : Word) : (s.setI w).disp = s.disp := rfl
@[simp] theorem State.setI_displayChanged (w : Word) : (s.setI w).displayChanged = s.displayChanged := rfl
@[simp] theorem State.setI_result (w : Word) : (s.setI w).result = s.result := rfl
@[simp] theorem State.setI_randSupply (w : Word) : (s.setI w).randSupply = s.randSupply := rfl
@[simp] theorem State.setI_draws (w : Word) : (s.setI w).draws = s.draws := rfl
@[simp] theorem State.reg_setI (w : Word) (r : Reg) : (s.setI w).reg r = s.reg r := rfl

/-! ### setPc -/

@[simp] theorem State.setPc_v (w : Word) : (s.setPc w).v = s.v := rfl
@[simp] theorem State.setPc_i (w : Word) : (s.setPc w).i = s.i := rfl
@[simp] theorem State.setPc_pc (w : Word) : (s.setPc w).pc = w := rfl
@[simp] theorem State.setPc_sp (w : Word) : (s.setPc w).sp = s.sp := rfl
@[simp] theorem State.setPc_stack (w : Word) : (s.setPc w).stack = s.stack := rfl
@[simp] theorem State.setPc_dt (w : Word) : (s.setPc w).dt = s.dt := rfl
@[simp] theorem State.setPc_st (w : Word) : (s.setPc w).st = s.st := rfl
@[simp] theorem State.setPc_key (w : Word) : (s.setPc w).key = s.key := rfl
@[simp] theorem State.setPc_mem (w : Word) : (s.setPc w).mem = s.mem := rfl
@[simp] theorem State.setPc_disp (w : Word) : (s.setPc w).disp = s.disp := rfl
@[simp] theorem State.setPc_displayChanged (w : Word) : (s.setPc w).displayChanged = s.displayChanged := rfl
@[simp] theorem State.setPc_result (w : Word) : (s.setPc w).result = s.result := rfl
@[simp] theorem State.setPc_randSupply (w : Word) : (s.setPc w).randSupply = s.randSupply := rfl
@[simp] theorem State.setPc_draws (w : Word) : (s.setPc w).draws = s.draws := rfl
@[simp] theorem State.reg_setPc (w : Word) (r : Reg) : (s.setPc w).reg r = s.reg r := rfl

/-! ### setDt -/

@[simp] theorem State.setDt_v (b : Byte) : (s.setDt b).v = s.v := rfl
@[simp] theorem State.setDt_i (b : Byte) : (s.setDt b).i = s.i := rfl
@[simp] theorem State.setDt_pc (b : Byte) : (s.setDt b).pc = s.pc := rfl
@[simp] theorem State.setDt_sp (b : Byte) : (s.setDt b).sp = s.sp := rfl
@[simp] theorem State.setDt_stack (b : Byte) : (s.setDt b).stack = s.stack := rfl
@[simp] theorem State.setDt_dt (b : Byte) : (s.setDt b).dt = b := rfl
@[simp] theorem State.setDt_st (b : Byte) : (s.setDt b).st = s.st := rfl
@[simp] theorem State.setDt_key (b : Byte) : (s.setDt b).key = s.key := rfl
@[simp] theorem State.setDt_mem (b : Byte) : (s.setDt b).mem = s.mem := rfl
@[simp] theorem State.setDt_disp (b : Byte) : (s.setDt b).disp = s.disp := rfl
@[simp] theorem State.setDt_displayChanged (b : Byte) : (s.setDt b).displayChanged = s.displayChanged := rfl
@[simp] theorem State.setDt_result (b : Byte) : (s.setDt b).result = s.result := rfl
@[simp] theorem State.setDt_randSupply (b : Byte) : (s.setDt b).randSupply = s.randSupply := rfl
@[simp] theorem State.setDt_draws (b : Byte) : (s.setDt b).draws = s.draws := rfl
@[simp] theorem State.reg_setDt (b : Byte) (r : Reg) : (s.setDt b).reg r = s.reg r := rfl

/-! ### setSt -/

@[simp] theorem State.setSt_v (b : Byte) : (s.setSt b).v = s.v := rfl
@[simp] theorem State.setSt_i (b : Byte) : (s.setSt b).i = s.i := rfl
@[simp] theorem State.setSt_pc (b : Byte) : (s.setSt b).pc = s.pc := rfl
@[simp] theorem State.setSt_sp (b : Byte) : (s.setSt b).sp = s.sp := rfl
@[simp] theorem State.setSt_stack (b : Byte) : (s.setSt b).stack = s.stack := rfl
@[simp] theorem State.setSt_dt (b : Byte) : (s.setSt b).dt = s.dt := rfl
@[simp] theorem State.setSt_st (b : Byte) : (s.setSt b).st = b := rfl
@[simp] theorem State.setSt_key (b : Byte) : (s.setSt b).key = s.key := rfl
@[simp] theorem State.setSt_mem (b : Byte) : (s.setSt b).mem = s.mem := rfl
@[simp] theorem State.setSt_disp (b : Byte) : (s.setSt b).disp = s.disp := rfl
@[simp] theorem State.setSt_displayChanged (b : Byte) : (s.setSt b).displayChanged = s.displayChanged := rfl
@[simp] theorem State.setSt_result (b : Byte) : (s.setSt b).result = s.result := rfl
@[simp] theorem State.setSt_randSupply (b : Byte) : (s.setSt b).randSupply = s.randSupply := rfl
@[simp] theorem State.setSt_draws (b : Byte) : (s.setSt b).draws = s.draws := rfl
@[simp] theorem State.reg_setSt (b : Byte) (r : Reg) : (s.setSt b).reg r = s.reg r := rfl

/-! ### setMem -/

@[simp] theorem State.setMem_v (m : Memory) : (s.setMem m).v = s.v := rfl
@[simp] theorem State.setMem_i (m : Memory) : (s.setMem m).i = s.i := rfl
@[simp] theorem State.setMem_pc (m : Memory) : (s.setMem m).pc = s.pc := rfl
@[simp] theorem State.setMem_sp (m : Memory) : (s.setMem m).sp = s.sp := rfl
@[simp] theorem State.setMem_stack (m : Memory) : (s.setMem m).stack = s.stack := rfl
@[simp] theorem State.setMem_dt (m : Memory) : (s.setMem m).dt = s.dt := rfl
@[simp] theorem State.setMem_st (m : Memory) : (s.setMem m).st = s.st := rfl
@[simp] theorem State.setMem_key (m : Memory) : (s.setMem m).key = s.key := rfl
@[simp] theorem State.setMem_mem (m : Memory) : (s.setMem m).mem = m := rfl
@[simp] theorem State.setMem_disp (m : Memory) : (s.setMem m).disp = s.disp := rfl
@[simp] theorem State.setMem_displayChanged (m : Memory) : (s.setMem m).displayChanged = s.displayChanged := rfl
@[simp] theorem State.setMem_result (m : Memory) : (s.setMem m).result = s.result := rfl
@[simp] theorem State.setMem_randSupply (m : Memory) : (s.setMem m).randSupply = s.randSupply := rfl
@[simp] theorem State.setMem_draws (m : Memory) : (s.setMem m).draws = s.draws := rfl
@[simp] theorem State.reg_setMem (m : Memory) (r : Reg) : (s.setMem m).reg r = s.reg r := rfl

/-! ### setDisplay -/

@[simp] theorem State.setDisplay_v (d : Display) : (s.setDisplay d).v = s.v := rfl
@[simp] theorem State.setDisplay_i (d : Display) : (s.setDisplay d).i = s.i := rfl
@[simp] theorem State.setDisplay_pc (d : Display) : (s.setDisplay d).pc = s.pc := rfl
@[simp] theorem State.setDisplay_sp (d : Display) : (s.setDisplay d).sp = s.sp := rfl
@[simp] theorem State.setDisplay_stack (d : Display) : (s.setDisplay d).stack = s.stack := rfl
@[simp] theorem State.setDisplay_dt (d : Display) : (s.setDisplay d).dt = s.dt := rfl
@[simp] theorem State.setDisplay_st (d : Display) : (s.setDisplay d).st = s.st := rfl
@[simp] theorem State.setDisplay_key (d : Display) : (s.setDisplay d).key = s.key := rfl
@[simp] theorem State.setDisplay_mem (d : Display) : (s.setDisplay d).mem = s.mem := rfl
@[simp] theorem State.setDisplay_disp (d : Display) : (s.setDisplay d).disp = d := rfl
@[simp] theorem State.setDisplay_displayChanged (d : Display) : (s.setDisplay d).displayChanged = true := rfl
@[simp] theorem State.setDisplay_result (d : Display) : (s.setDisplay d).result = s.result := rfl
@[simp] theorem State.setDisplay_randSupply (d : Display) : (s.setDisplay d).randSupply = s.randSupply := rfl
@[simp] theorem State.setDisplay_draws (d : Display) : (s.setDisplay d).draws = s.draws := rfl
@[simp] theorem State.reg_setDisplay (d : Display) (r : Reg) : (s.setDisplay d).reg r = s.reg r := rfl

/-! ### setResult -/

@[simp] theorem State.setResult_v (r : StepResult) : (s.setResult r).v = s.v := rfl
@[simp] theorem State.setResult_i (r : StepResult) : (s.setResult r).i = s.i := rfl
@[simp] theorem State.setResult_pc (r : StepResult) : (s.setResult r).pc = s.pc := rfl
@[simp] theorem State.setResult_sp (r : StepResult) : (s.setResult r).sp = s.sp := rfl
@[simp] theorem State.setResult_stack (r : StepResult) : (s.setResult r).stack = s.stack := rfl
@[simp] theorem State.setResult_dt (r : StepResult) : (s.setResult r).dt = s.dt := rfl
@[simp] theorem State.setResult_st (r : StepResult) : (s.setResult r).st = s.st := rfl
@[simp] theorem State.setResult_key (r : StepResult) : (s.setResult r).key = s.key := rfl
@[simp] theorem State.setResult_mem (r : StepResult) : (s.setResult r).mem = s.mem := rfl
@[simp] theorem State.setResult_disp (r : StepResult) : (s.setResult r).disp = s.disp := rfl
@[simp] theorem State.setResult_displayChanged (r : StepResult) : (s.setResult r).displayChanged = s.displayChanged := rfl
@[simp] theorem State.setResult_result (r : StepResult) : (s.setResult r).result = r := rfl
@[simp] theorem State.setResult_randSupply (r : StepResult) : (s.setResult r).randSupply = s.randSupply := rfl
@[simp] theorem State.setResult_draws (r : StepResult) : (s.setResult r).draws = s.draws := rfl
@[simp] theorem State.reg_setResult (r : StepResult) (q : Reg) : (s.setResult r).reg q = s.reg q := rfl

/-! ### advance -/

@[simp] theorem State.advance_v : (s.advance).v = s.v := rfl
@[simp] theorem State.advance_i : (s.advance).i = s.i := rfl
@[simp] theorem State.advance_pc : (s.advance).pc = s.pc + 2 := rfl
@[simp] theorem State.advance_sp : (s.advance).sp = s.sp := rfl
@[simp] theorem State.advance_stack : (s.advance).stack = s.stack := rfl
@[simp] theorem State.advance_dt : (s.advance).dt = s.dt := rfl
@[simp] theorem State.advance_st : (s.advance).st = s.st := rfl
@[simp] theorem State.advance_key : (s.advance).key = s.key := rfl
@[simp] theorem State.advance_mem : (s.advance).mem = s.mem := rfl
@[simp] theorem State.advance_disp : (s.advance).disp = s.disp := rfl
@[simp] theorem State.advance_displayChanged : (s.advance).displayChanged = s.displayChanged := rfl
@[simp] theorem State.advance_result : (s.advance).result = s.result := rfl
@[simp] theorem State.advance_randSupply : (s.advance).randSupply = s.randSupply := rfl
@[simp] theorem State.advance_draws : (s.advance).draws = s.draws := rfl
@[simp] theorem State.reg_advance (r : Reg) : (s.advance).reg r = s.reg r := rfl

/-! ### skipIf -/

@[simp] theorem State.skipIf_v (c : Bool) : (s.skipIf c).v = s.v := rfl
@[simp] theorem State.skipIf_i (c : Bool) : (s.skipIf c).i = s.i := rfl
@[simp] theorem State.skipIf_pc (c : Bool) : (s.skipIf c).pc = if c then s.pc + 4 else s.pc + 2 := rfl
@[simp] theorem State.skipIf_sp (c : Bool) : (s.skipIf c).sp = s.sp := rfl
@[simp] theorem State.skipIf_stack (c : Bool) : (s.skipIf c).stack = s.stack := rfl
@[simp] theorem State.skipIf_dt (c : Bool) : (s.skipIf c).dt = s.dt := rfl
@[simp] theorem State.skipIf_st (c : Bool) : (s.skipIf c).st = s.st := rfl
@[simp] theorem State.skipIf_key (c : Bool) : (s.skipIf c).key = s.key := rfl
@[simp] theorem State.skipIf_mem (c : Bool) : (s.skipIf c).mem = s.mem := rfl
@[simp] theorem State.skipIf_disp (c : Bool) : (s.skipIf c).disp = s.disp := rfl
@[simp] theorem State.skipIf_displayChanged (c : Bool) : (s.skipIf c).displayChanged = s.displayChanged := rfl
@[simp] theorem State.skipIf_result (c : Bool) : (s.skipIf c).result = s.result := rfl
@[simp] theorem State.skipIf_randSupply (c : Bool) : (s.skipIf c).randSupply = s.randSupply := rfl
@[simp] theorem State.skipIf_draws (c : Bool) : (s.skipIf c).draws = s.draws := rfl
@[simp] theorem State.reg_skipIf (c : Bool) (r : Reg) : (s.skipIf c).reg r = s.reg r := rfl

/-! ### setFlag -/

@[simp] theorem State.setFlag_v (f : Bool) : (s.setFlag f).v = s.v.set 15 (flagByte f) := rfl
@[simp] theorem State.setFlag_i (f : Bool) : (s.setFlag f).i = s.i := rfl
@[simp] theorem State.setFlag_pc (f : Bool) : (s.setFlag f).pc = s.pc := rfl
@[simp] theorem State.setFlag_sp (f : Bool) : (s.setFlag f).sp = s.sp := rfl
@[simp] theorem State.setFlag_stack (f : Bool) : (s.setFlag f).stack = s.stack := rfl
@[simp] theorem State.setFlag_dt (f : Bool) : (s.setFlag f).dt = s.dt := rfl
@[simp] theorem State.setFlag_st (f : Bool) : (s.setFlag f).st = s.st := rfl
@[simp] theorem State.setFlag_key (f : Bool) : (s.setFlag f).key = s.key := rfl
@[simp] theorem State.setFlag_mem (f : Bool) : (s.setFlag f).mem = s.mem := rfl
@[simp] theorem State.setFlag_disp (f : Bool) : (s.setFlag f).disp = s.disp := rfl
@[simp] theorem State.setFlag_displayChanged (f : Bool) : (s.setFlag f).displayChanged = s.displayChanged := rfl
@[simp] theorem State.setFlag_result (f : Bool) : (s.setFlag f).result = s.result := rfl
@[simp] theorem State.setFlag_randSupply (f : Bool) : (s.setFlag f).randSupply = s.randSupply := rfl
@[simp] theorem State.setFlag_draws (f : Bool) : (s.setFlag f).draws = s.draws := rfl

/-! ### setFlagThenResult -/

@[simp] theorem State.setFlagThenResult_v (f : Bool) (x : Reg) (b : Byte) : (s.setFlagThenResult f x b).v = (s.v.set 15 (flagByte f)).set x.toNat b x.isLt := rfl
@[simp] theorem State.setFlagThenResult_i (f : Bool) (x : Reg) (b : Byte) : (s.setFlagThenResult f x b).i = s.i := rfl
@[simp] theorem State.setFlagThenResult_pc (f : Bool) (x : Reg) (b : Byte) : (s.setFlagThenResult f x b).pc = s.pc := rfl
@[simp] theorem State.setFlagThenResult_sp (f : Bool) (x : Reg) (b : Byte) : (s.setFlagThenResult f x b).sp = s.sp := rfl
@[simp] theorem State.setFlagThenResult_stack (f : Bool) (x : Reg) (b : Byte) : (s.setFlagThenResult f x b).stack = s.stack := rfl
@[simp] theorem State.setFlagThenResult_dt (f : Bool) (x : Reg) (b : Byte) : (s.setFlagThenResult f x b).dt = s.dt := rfl
@[simp] theorem State.setFlagThenResult_st (f : Bool) (x : Reg) (b : Byte) : (s.setFlagThenResult f x b).st = s.st := rfl
@[simp] theorem State.setFlagThenResult_key (f : Bool) (x : Reg) (b : Byte) : (s.setFlagThenResult f x b).key = s.key := rfl
@[simp] theorem State.setFlagThenResult_mem (f : Bool) (x : Reg) (b : Byte) : (s.setFlagThenResult f x b).mem = s.mem := rfl
@[simp] theorem State.setFlagThenResult_disp (f : Bool) (x : Reg) (b : Byte) : (s.setFlagThenResult f x b).disp = s.disp := rfl
@[simp] theorem State.setFlagThenResult_displayChanged (f : Bool) (x : Reg) (b : Byte) : (s.setFlagThenResult f x b).displayChanged = s.displayChanged := rfl
@[simp] theorem State.setFlagThenResult_result (f : Bool) (x : Reg) (b : Byte) : (s.setFlagThenResult f x b).result = s.result := rfl
@[simp] theorem State.setFlagThenResult_randSupply (f : Bool) (x : Reg) (b : Byte) : (s.setFlagThenResult f x b).randSupply = s.randSupply := rfl
@[simp] theorem State.setFlagThenResult_draws (f : Bool) (x : Reg) (b : Byte) : (s.setFlagThenResult f x b).draws = s.draws := rfl

/-! ### push -/

@[simp] theorem State.push_v (w : Word) (h : s.sp.val < 16) : (s.push w h).v = s.v := rfl
@[simp] theorem State.push_i (w : Word) (h : s.sp.val < 16) : (s.push w h).i = s.i := rfl
@[simp] theorem State.push_pc (w : Word) (h : s.sp.val < 16) : (s.push w h).pc = s.pc := rfl
@[simp] theorem State.push_sp (w : Word) (h : s.sp.val < 16) : (s.push w h).sp = ⟨s.sp.val + 1, by omega⟩ := rfl
@[simp] theorem State.push_stack (w : Word) (h : s.sp.val < 16) : (s.push w h).stack = s.stack.set s.sp.val w h := rfl
@[simp] theorem State.push_dt (w : Word) (h : s.sp.val < 16) : (s.push w h).dt = s.dt := rfl
@[simp] theorem State.push_st (w : Word) (h : s.sp.val < 16) : (s.push w h).st = s.st := rfl
@[simp] theorem State.push_key (w : Word) (h : s.sp.val < 16) : (s.push w h).key = s.key := rfl
@[simp] theorem State.push_mem (w : Word) (h : s.sp.val < 16) : (s.push w h).mem = s.mem := rfl
@[simp] theorem State.push_disp (w : Word) (h : s.sp.val < 16) : (s.push w h).disp = s.disp := rfl
@[simp] theorem State.push_displayChanged (w : Word) (h : s.sp.val < 16) : (s.push w h).displayChanged = s.displayChanged := rfl
@[simp] theorem State.push_result (w : Word) (h : s.sp.val < 16) : (s.push w h).result = s.result := rfl
@[simp] theorem State.push_randSupply (w : Word) (h : s.sp.val < 16) : (s.push w h).randSupply = s.randSupply := rfl
@[simp] theorem State.push_draws (w : Word) (h : s.sp.val < 16) : (s.push w h).draws = s.draws := rfl
@[simp] theorem State.reg_push (w : Word) (h : s.sp.val < 16) (r : Reg) : (s.push w h).reg r = s.reg r := rfl

/-! ### pop -/

@[simp] theorem State.pop_v : (s.pop).v = s.v := rfl
@[simp] theorem State.pop_i : (s.pop).i = s.i := rfl
@[simp] theorem State.pop_pc : (s.pop).pc = s.pc := rfl
@[simp] theorem State.pop_sp : (s.pop).sp = ⟨s.sp.val - 1, by have := s.sp.isLt; omega⟩ := rfl
@[simp] theorem State.pop_stack : (s.pop).stack = s.stack := rfl
@[simp] theorem State.pop_dt : (s.pop).dt = s.dt := rfl
@[simp] theorem State.pop_st : (s.pop).st = s.st := rfl
@[simp] theorem State.pop_key : (s.pop).key = s.key := rfl
@[simp] theorem State.pop_mem : (s.pop).mem = s.mem := rfl
@[simp] theorem State.pop_disp : (s.pop).disp = s.disp := rfl
@[simp] theorem State.pop_displayChanged : (s.pop).displayChanged = s.displayChanged := rfl
@[simp] theorem State.pop_result : (s.pop).result = s.result := rfl
@[simp] theorem State.pop_randSupply : (s.pop).randSupply = s.randSupply := rfl
@[simp] theorem State.pop_draws : (s.pop).draws = s.draws := rfl
@[simp] theorem State.reg_pop (r : Reg) : (s.pop).reg r = s.reg r := rfl

/-! ### nextDraw -/

@[simp] theorem State.nextDraw_v : (s.nextDraw).v = s.v := rfl
@[simp] theorem State.nextDraw_i : (s.nextDraw).i = s.i := rfl
@[simp] theorem State.nextDraw_pc : (s.nextDraw).pc = s.pc := rfl
@[simp] theorem State.nextDraw_sp : (s.nextDraw).sp = s.sp := rfl
@[simp] theorem State.nextDraw_stack : (s.nextDraw).stack = s.stack := rfl
@[simp] theorem State.nextDraw_dt : (s.nextDraw).dt = s.dt := rfl
@[simp] theorem State.nextDraw_st : (s.nextDraw).st = s.st := rfl
@[simp] theorem State.nextDraw_key : (s.nextDraw).key = s.key := rfl
@[simp] theorem State.nextDraw_mem : (s.nextDraw).mem = s.mem := rfl
@[simp] theorem State.nextDraw_disp : (s.nextDraw).disp = s.disp := rfl
@[simp] theorem State.nextDraw_displayChanged : (s.nextDraw).displayChanged = s.displayChanged := rfl
@[simp] theorem State.nextDraw_result : (s.nextDraw).result = s.result := rfl
@[simp] theorem State.nextDraw_randSupply : (s.nextDraw).randSupply = s.randSupply.tail := rfl
@[simp] theorem State.nextDraw_draws : (s.nextDraw).draws = s.draws + 1 := rfl
@[simp] theorem State.reg_nextDraw (r : Reg) : (s.nextDraw).reg r = s.reg r := rfl

/-! ### tickState -/

@[simp] theorem tickState_v : (tickState s).v = s.v := rfl
@[simp] theorem tickState_i : (tickState s).i = s.i := rfl
@[simp] theorem tickState_pc : (tickState s).pc = s.pc := rfl
@[simp] theorem tickState_sp : (tickState s).sp = s.sp := rfl
@[simp] theorem tickState_stack : (tickState s).stack = s.stack := rfl
@[simp] theorem tickState_dt : (tickState s).dt = decrement s.dt := rfl
@[simp] theorem tickState_st : (tickState s).st = decrement s.st := rfl
@[simp] theorem tickState_key : (tickState s).key = s.key := rfl
@[simp] theorem tickState_mem : (tickState s).mem = s.mem := rfl
@[simp] theorem tickState_disp : (tickState s).disp = s.disp := rfl
@[simp] theorem tickState_displayChanged : (tickState s).displayChanged = s.displayChanged := rfl
@[simp] theorem tickState_result : (tickState s).result = s.result := rfl
@[simp] theorem tickState_randSupply : (tickState s).randSupply = s.randSupply := rfl
@[simp] theorem tickState_draws : (tickState s).draws = s.draws := rfl
@[simp] theorem reg_tickState (r : Reg) : (tickState s).reg r = s.reg r := rfl

/-! ### setKey -/

@[simp] theorem setKey_v (k : Fin 16) (p : Bool) : (setKey s k p).v = s.v := rfl
@[simp] theorem setKey_i (k : Fin 16) (p : Bool) : (setKey s k p).i = s.i := rfl
@[simp] theorem setKey_pc (k : Fin 16) (p : Bool) : (setKey s k p).pc = s.pc := rfl
@[simp] theorem setKey_sp (k : Fin 16) (p : Bool) : (setKey s k p).sp = s.sp := rfl
@[simp] theorem setKey_stack (k : Fin 16) (p : Bool) : (setKey s k p).stack = s.stack := rfl
@[simp] theorem setKey_dt (k : Fin 16) (p : Bool) : (setKey s k p).dt = s.dt := rfl
@[simp] theorem setKey_st (k : Fin 16) (p : Bool) : (setKey s k p).st = s.st := rfl
@[simp] theorem setKey_key (k : Fin 16) (p : Bool) : (setKey s k p).key = s.key.set k.val p k.isLt := rfl
@[simp] theorem setKey_mem (k : Fin 16) (p : Bool) : (setKey s k p).mem = s.mem := rfl
@[simp] theorem setKey_disp (k : Fin 16) (p : Bool) : (setKey s k p).disp = s.disp := rfl
@[simp] theorem setKey_displayChanged (k : Fin 16) (p : Bool) : (setKey s k p).displayChanged = s.displayChanged := rfl
@[simp] theorem setKey_result (k : Fin 16) (p : Bool) : (setKey s k p).result = s.result := rfl
@[simp] theorem setKey_randSupply (k : Fin 16) (p : Bool) : (setKey s k p).randSupply = s.randSupply := rfl
@[simp] theorem setKey_draws (k : Fin 16) (p : Bool) : (setKey s k p).draws = s.draws := rfl
@[simp] theorem reg_setKey (k : Fin 16) (p : Bool) (r : Reg) : (setKey s k p).reg r = s.reg r := rfl

/-! ### renderAck -/

@[simp] theorem renderAck_v : (renderAck s).v = s.v := rfl
@[simp] theorem renderAck_i : (renderAck s).i = s.i := rfl
@[simp] theorem renderAck_pc : (renderAck s).pc = s.pc := rfl
@[simp] theorem renderAck_sp : (renderAck s).sp = s.sp := rfl
@[simp] theorem renderAck_stack : (renderAck s).stack = s.stack := rfl
@[simp] theorem renderAck_dt : (renderAck s).dt = s.dt := rfl
@[simp] theorem renderAck_st : (renderAck s).st = s.st := rfl
@[simp] theorem renderAck_key : (renderAck s).key = s.key := rfl
@[simp] theorem renderAck_mem : (renderAck s).mem = s.mem := rfl
@[simp] theorem renderAck_disp : (renderAck s).disp = s.disp := rfl
@[simp] theorem renderAck_displayChanged : (renderAck s).displayChanged = false := rfl
@[simp] theorem renderAck_result : (renderAck s).result = s.result := rfl
@[simp] theorem renderAck_randSupply : (renderAck s).randSupply = s.randSupply := rfl
@[simp] theorem renderAck_draws : (renderAck s).draws = s.draws := rfl
@[simp] theorem reg_renderAck (r : Reg) : (renderAck s).reg r = s.reg r := rfl

/-! ### supplyRand -/

@[simp] theorem supplyRand_v (b : Byte) : (supplyRand b s).v = s.v := rfl
@[simp] theorem supplyRand_i (b : Byte) : (supplyRand b s).i = s.i := rfl
@[simp] theorem supplyRand_pc (b : Byte) : (supplyRand b s).pc = s.pc := rfl
@[simp] theorem supplyRand_sp (b : Byte) : (supplyRand b s).sp = s.sp := rfl
@[simp] theorem supplyRand_stack (b : Byte) : (supplyRand b s).stack = s.stack := rfl
@[simp] theorem supplyRand_dt (b : Byte) : (supplyRand b s).dt = s.dt := rfl
@[simp] theorem supplyRand_st (b : Byte) : (supplyRand b s).st = s.st := rfl
@[simp] theorem supplyRand_key (b : Byte) : (supplyRand b s).key = s.key := rfl
@[simp] theorem supplyRand_mem (b : Byte) : (supplyRand b s).mem = s.mem := rfl
@[simp] theorem supplyRand_disp (b : Byte) : (supplyRand b s).disp = s.disp := rfl
@[simp] theorem supplyRand_displayChanged (b : Byte) : (supplyRand b s).displayChanged = s.displayChanged := rfl
@[simp] theorem supplyRand_result (b : Byte) : (supplyRand b s).result = s.result := rfl
@[simp] theorem supplyRand_randSupply (b : Byte) : (supplyRand b s).randSupply = b :: s.randSupply := rfl
@[simp] theorem supplyRand_draws (b : Byte) : (supplyRand b s).draws = s.draws := rfl
@[simp] theorem reg_supplyRand (b : Byte) (r : Reg) : (supplyRand b s).reg r = s.reg r := rfl

/-! ### placeOpcode -/

@[simp] theorem placeOpcode_v (w : Word) : (placeOpcode s w).v = s.v := rfl
@[simp] theorem placeOpcode_i (w : Word) : (placeOpcode s w).i = s.i := rfl
@[simp] theorem placeOpcode_pc (w : Word) : (placeOpcode s w).pc = placeAddress s := rfl
@[simp] theorem placeOpcode_sp (w : Word) : (placeOpcode s w).sp = s.sp := rfl
@[simp] theorem placeOpcode_stack (w : Word) : (placeOpcode s w).stack = s.stack := rfl
@[simp] theorem placeOpcode_dt (w : Word) : (placeOpcode s w).dt = s.dt := rfl
@[simp] theorem placeOpcode_st (w : Word) : (placeOpcode s w).st = s.st := rfl
@[simp] theorem placeOpcode_key (w : Word) : (placeOpcode s w).key = s.key := rfl
@[simp] theorem placeOpcode_mem (w : Word) : (placeOpcode s w).mem = Memory.writeBytes s.mem (placeAddress s).toNat (bytesOfWord w) := rfl
@[simp] theorem placeOpcode_disp (w : Word) : (placeOpcode s w).disp = s.disp := rfl
@[simp] theorem placeOpcode_displayChanged (w : Word) : (placeOpcode s w).displayChanged = s.displayChanged := rfl
@[simp] theorem placeOpcode_result (w : Word) : (placeOpcode s w).result = s.result := rfl
@[simp] theorem placeOpcode_randSupply (w : Word) : (placeOpcode s w).randSupply = s.randSupply := rfl
@[simp] theorem placeOpcode_draws (w : Word) : (placeOpcode s w).draws = s.draws := rfl
@[simp] theorem reg_placeOpcode (w : Word) (r : Reg) : (placeOpcode s w).reg r = s.reg r := rfl

/-! ### The register file -/

/-- A read after a write: the value written at its own register, the old value at every other (R10, R20). -/
@[simp] theorem State.reg_setReg (x : Reg) (b : Byte) (r : Reg) :
    (s.setReg x b).reg r = if r = x then b else s.reg r := by
  by_cases h : r = x
  · subst h; simp [State.reg]
  · have hne : x.toNat ≠ r.toNat := fun e => h (BitVec.eq_of_toNat_eq e.symm)
    simp [State.reg, h, Vector.getElem_set_ne, hne]

@[simp] theorem State.reg_setRegs (v : Regs) (r : Reg) : (s.setRegs v).reg r = v[r.toNat]'r.isLt := rfl

@[simp] theorem State.reg_setFlag (f : Bool) (r : Reg) :
    (s.setFlag f).reg r = if r = vf then flagByte f else s.reg r := State.reg_setReg s vf (flagByte f) r

/-- The two writes of R95: the result, being last, is what remains when X = F (R143). -/
@[simp] theorem State.reg_setFlagThenResult (f : Bool) (x : Reg) (b : Byte) (r : Reg) :
    (s.setFlagThenResult f x b).reg r = if r = x then b else if r = vf then flagByte f else s.reg r := by
  simp [State.setFlagThenResult]

end Sys2Proof.Machine
end

