-- ==== Sys2Proof/Laws/Ops.lean ====
section
/-! SUPPORT. What each shared operation can do, said once: how a step ends, the range check, the key test, the least pressed
key, the register transfers of FX55 and FX65, and the bytes of a word. -/

namespace Sys2Proof.Machine

/-! ## How a step ends -/

@[simp] theorem complete_eq_next {s t : State} :
    complete s = .next t ↔ t = s.setResult ⟨false, .executed⟩ := by
  simp [complete, eq_comm]

@[simp] theorem completeDisplay_eq_next {s t : State} :
    completeDisplay s = .next t ↔ t = s.setResult ⟨true, .executed⟩ := by
  simp [completeDisplay, eq_comm]

@[simp] theorem noProgress_eq_next {s t : State} :
    noProgress s = .next t ↔ t = s.setResult ⟨false, .noProgress⟩ := by
  simp [noProgress, eq_comm]

@[simp] theorem complete_ne_fault {s : State} {f : Fault} : complete s ≠ .fault f := by simp [complete]

@[simp] theorem completeDisplay_ne_fault {s : State} {f : Fault} : completeDisplay s ≠ .fault f := by
  simp [completeDisplay]

@[simp] theorem noProgress_ne_fault {s : State} {f : Fault} : noProgress s ≠ .fault f := by simp [noProgress]

@[simp] theorem raise_ne_next {f : Fault} {t : State} : raise f ≠ .next t := by simp [raise]

@[simp] theorem raise_eq_fault {f g : Fault} : raise f = .fault g ↔ f = g := by simp [raise]

/-- The range check lets the body run, or faults with the highest address (R55). -/
theorem checkRange_of_le {last : Nat} {body : Result} (h : last ≤ 0xFFF) : checkRange last body = body :=
  if_neg (by simpa [lastAddress] using h)

theorem checkRange_of_gt {last : Nat} {body : Result} (h : 0xFFF < last) :
    checkRange last body = .fault (.memoryOutOfRange (BitVec.ofNat 16 last)) := if_pos h

/-- If a range-checked body answers a next state, the range was good and the body answered it. -/
theorem checkRange_next {last : Nat} {body : Result} {t : State} (h : checkRange last body = .next t) :
    last ≤ 0xFFF ∧ body = .next t := by
  by_cases hl : last ≤ 0xFFF
  · exact ⟨hl, by rwa [checkRange_of_le hl] at h⟩
  · rw [checkRange_of_gt (by omega)] at h; cases h

/-- The key test runs its body on the flag, or faults with VX (R190). -/
theorem withKey_of_lt {s : State} {b : Byte} {body : Bool → Result} (h : b.toNat < 16) :
    withKey s b body = body (s.key[b.toNat]'h) := dif_pos h

theorem withKey_of_ge {s : State} {b : Byte} {body : Bool → Result} (h : 16 ≤ b.toNat) :
    withKey s b body = .fault (.keyIndexOutOfRange (zextByte b)) := dif_neg (by omega)

theorem withKey_next {s t : State} {b : Byte} {body : Bool → Result} (h : withKey s b body = .next t) :
    ∃ hb : b.toNat < 16, body (s.key[b.toNat]'hb) = .next t := by
  by_cases hb : b.toNat < 16
  · exact ⟨hb, by rwa [withKey_of_lt hb] at h⟩
  · rw [withKey_of_ge (by omega)] at h; cases h

/-! ## The least pressed key (R192) -/

theorem leastKey_eq_none {s : State} : leastKey s = none ↔ ∀ k : Fin 16, s.key[k.val] = false := by
  simp [leastKey, List.find?_eq_none]

/-- If some key is pressed, `leastKey` answers a pressed key with no pressed key below it. -/
theorem leastKey_eq_some {s : State} {k : Fin 16} (h : leastKey s = some k) :
    s.key[k.val] = true ∧ ∀ j : Fin 16, j < k → s.key[j.val] = false := by
  obtain ⟨hk, as, bs, happ, hall⟩ := List.find?_eq_some_iff_append.mp h
  refine ⟨hk, fun j hj => ?_⟩
  have hsorted : (List.finRange 16).Pairwise (· < ·) := List.pairwise_lt_finRange 16
  rw [happ, List.pairwise_append] at hsorted
  have hmem : j ∈ as ++ k :: bs := happ ▸ List.mem_finRange j
  rcases List.mem_append.mp hmem with hj' | hj'
  · simpa using hall j hj'
  · rcases List.mem_cons.mp hj' with rfl | hj'
    · exact absurd hj (lt_irrefl _)
    · exact absurd ((List.pairwise_cons.mp hsorted.2.1).1 j hj') (not_lt_of_gt hj)

/-! ## FX55 and FX65 (R164, R165) -/

@[simp] theorem State.length_regsUpTo (s : State) (x : Reg) : (s.regsUpTo x).length = x.toNat + 1 := by
  have := x.isLt
  simp [State.regsUpTo]; omega

/-- The k-th byte that FX55 stores is V[k]. -/
theorem State.getD_regsUpTo (s : State) (x r : Reg) (h : r.toNat ≤ x.toNat) :
    (s.regsUpTo x).getD r.toNat 0 = s.reg r := by
  have hr := r.isLt
  have h1 : r.toNat < (s.regsUpTo x).length := by simp; omega
  rw [List.getD_eq_getElem _ _ h1]
  simp [State.regsUpTo, State.reg]

/-- Everything the register load does: V[k] from base + k for k below n, and no other register. -/
theorem getElem_loadRegs (m : Memory) (base n : Nat) (v : Regs) (k : Nat) (hk : k < 16) :
    (loadRegs m base n v)[k] = if k < n then Memory.read m (base + k) else v[k] := by
  induction n with
  | zero => simp [loadRegs]
  | succ n ih =>
    simp only [loadRegs, Vector.getElem_setIfInBounds]
    by_cases h : n = k
    · subst h; simp
    · have : (k < n + 1) ↔ (k < n) := by omega
      simp [h, this, ih]

/-! ## Digits and addresses (R161 to R163) -/

@[simp] theorem length_decimalDigits (b : Byte) : (decimalDigits b).length = 3 := rfl

theorem toNat_glyphAddress (b : Byte) : (glyphAddress b).toNat = b.toNat * 5 := by
  have := b.isLt
  simp [glyphAddress, BitVec.toNat_mul]; omega

theorem toNat_indexSum (i : Word) (b : Byte) : (indexSum i b).toNat = (i.toNat + b.toNat) % 0x1000 := by
  simp [indexSum]; omega

theorem State.toNat_indexPast (s : State) (x : Reg) (h : s.i.toNat + x.toNat ≤ 0xFFF) :
    (s.indexPast x).toNat = s.i.toNat + x.toNat + 1 := by
  have := x.isLt
  simp [State.indexPast]; omega

/-! ## The bytes of a word (R51) -/

theorem toNat_readWord (m : Memory) (a : Nat) :
    (Memory.readWord m a).toNat = (Memory.read m a).toNat * 256 + (Memory.read m (a + 1)).toNat := by
  have := (Memory.read m (a + 1)).isLt
  rw [Memory.readWord, BitVec.toNat_append, ← Nat.shiftLeft_add_eq_or_of_lt this, Nat.shiftLeft_eq]

/-- Storing an opcode's two bytes and fetching there gives the opcode back (R51, R61). -/
theorem readWord_writeBytes_bytesOfWord (m : Memory) (a : Nat) (w : Word) :
    Memory.readWord (Memory.writeBytes m a (bytesOfWord w)) a = w := by
  simp only [Memory.readWord, Memory.read_writeBytes, bytesOfWord, List.length_cons, List.length_nil]
  rw [if_pos (by omega), if_pos (by omega)]
  have h1 : a - a = 0 := by omega
  have h2 : a + 1 - a = 1 := by omega
  rw [h1, h2]
  ext i hi
  simp only [List.getD_cons_zero, List.getD_cons_succ, BitVec.getElem_append, BitVec.getElem_extractLsb']
  split
  · simp [BitVec.getLsbD_eq_getElem hi]
  · have : 8 + (i - 8) = i := by omega
    simp [this, BitVec.getLsbD_eq_getElem hi]

end Sys2Proof.Machine
end

