-- ==== Sys2Proof/Laws/Exec.lean ====
section
/-! SUPPORT. `exec` of each constructor is its meaning, what the host's operations do to the timers, and what reset leaves. A proof
about one instruction cites the lemma of its own arm and never unfolds the others. -/

namespace Sys2Proof.Machine

variable (s : State)

@[simp] theorem exec_cls : exec .cls s = execCls s := rfl

@[simp] theorem exec_ret : exec .ret s = execRet s := rfl

@[simp] theorem exec_jp (nnn : Addr) : exec (.jp nnn) s = execJp nnn s := rfl

@[simp] theorem exec_call (nnn : Addr) : exec (.call nnn) s = execCall nnn s := rfl

@[simp] theorem exec_seImm (x : Reg) (nn : Byte) : exec (.seImm x nn) s = execSeImm x nn s := rfl

@[simp] theorem exec_sneImm (x : Reg) (nn : Byte) : exec (.sneImm x nn) s = execSneImm x nn s := rfl

@[simp] theorem exec_seReg (x y : Reg) : exec (.seReg x y) s = execSeReg x y s := rfl

@[simp] theorem exec_ldImm (x : Reg) (nn : Byte) : exec (.ldImm x nn) s = execLdImm x nn s := rfl

@[simp] theorem exec_addImm (x : Reg) (nn : Byte) : exec (.addImm x nn) s = execAddImm x nn s := rfl

@[simp] theorem exec_ldReg (x y : Reg) : exec (.ldReg x y) s = execLdReg x y s := rfl

@[simp] theorem exec_or (x y : Reg) : exec (.or x y) s = execOr x y s := rfl

@[simp] theorem exec_and (x y : Reg) : exec (.and x y) s = execAnd x y s := rfl

@[simp] theorem exec_xor (x y : Reg) : exec (.xor x y) s = execXor x y s := rfl

@[simp] theorem exec_addReg (x y : Reg) : exec (.addReg x y) s = execAddReg x y s := rfl

@[simp] theorem exec_sub (x y : Reg) : exec (.sub x y) s = execSub x y s := rfl

@[simp] theorem exec_shr (x y : Reg) : exec (.shr x y) s = execShr x y s := rfl

@[simp] theorem exec_subn (x y : Reg) : exec (.subn x y) s = execSubn x y s := rfl

@[simp] theorem exec_shl (x y : Reg) : exec (.shl x y) s = execShl x y s := rfl

@[simp] theorem exec_sneReg (x y : Reg) : exec (.sneReg x y) s = execSneReg x y s := rfl

@[simp] theorem exec_ldI (nnn : Addr) : exec (.ldI nnn) s = execLdI nnn s := rfl

@[simp] theorem exec_jpV0 (nnn : Addr) : exec (.jpV0 nnn) s = execJpV0 nnn s := rfl

@[simp] theorem exec_rnd (x : Reg) (nn : Byte) : exec (.rnd x nn) s = execRnd x nn s := rfl

@[simp] theorem exec_drw (x y : Reg) (n : Nib) : exec (.drw x y n) s = execDrw x y n s := rfl

@[simp] theorem exec_skp (x : Reg) : exec (.skp x) s = execSkp x s := rfl

@[simp] theorem exec_sknp (x : Reg) : exec (.sknp x) s = execSknp x s := rfl

@[simp] theorem exec_ldVxDt (x : Reg) : exec (.ldVxDt x) s = execLdVxDt x s := rfl

@[simp] theorem exec_ldVxK (x : Reg) : exec (.ldVxK x) s = execLdVxK x s := rfl

@[simp] theorem exec_ldDtVx (x : Reg) : exec (.ldDtVx x) s = execLdDtVx x s := rfl

@[simp] theorem exec_ldStVx (x : Reg) : exec (.ldStVx x) s = execLdStVx x s := rfl

@[simp] theorem exec_addI (x : Reg) : exec (.addI x) s = execAddI x s := rfl

@[simp] theorem exec_ldF (x : Reg) : exec (.ldF x) s = execLdF x s := rfl

@[simp] theorem exec_ldB (x : Reg) : exec (.ldB x) s = execLdB x s := rfl

@[simp] theorem exec_stRegs (x : Reg) : exec (.stRegs x) s = execStRegs x s := rfl

@[simp] theorem exec_ldRegs (x : Reg) : exec (.ldRegs x) s = execLdRegs x s := rfl

/-- DXYN with its range good completes with the drawing (R181). -/
theorem execDrw_of_range {s : State} {x y : Reg} {n : Nib}
    (h : n.toNat = 0 ∨ s.i.toNat + n.toNat - 1 ≤ 0xFFF) :
    execDrw x y n s =
      completeDisplay ((s.setFlag (s.drawing x y n).collision).setDisplay (s.drawing x y n).disp).advance := by
  apply checkRange_of_le
  split
  · omega
  · rename_i h0
    have : n.toNat ≠ 0 := fun e => h0 (BitVec.eq_of_toNat_eq (by simpa using e))
    show s.i.toNat + n.toNat - 1 ≤ _
    omega

/-- DXYN with N above 0 and its last row above 0xFFF faults (R55, R181). -/
theorem execDrw_of_range_bad {s : State} {x y : Reg} {n : Nib} (hn : 0 < n.toNat)
    (h : 0xFFF < s.i.toNat + n.toNat - 1) :
    execDrw x y n s = .fault (.memoryOutOfRange (BitVec.ofNat 16 (s.i.toNat + n.toNat - 1))) := by
  have h0 : n ≠ 0 := by rintro rfl; simp at hn
  show checkRange _ _ = _
  rw [if_neg h0]
  exact checkRange_of_gt h

/-- FX0A with a key pressed, or with none (R192). -/
theorem execLdVxK_of_some {s : State} {k : Fin 16} (x : Reg) (h : leastKey s = some k) :
    execLdVxK x s = complete (s.setReg x (BitVec.ofNat 8 k.val)).advance := by
  simp [execLdVxK, h]

theorem execLdVxK_of_none {s : State} (x : Reg) (h : leastKey s = none) : execLdVxK x s = noProgress s := by
  simp [execLdVxK, h]

/-! ## Timers (R231, R232) -/

theorem toNat_decrement (b : Byte) : (decrement b).toNat = b.toNat - 1 := by
  unfold decrement
  split
  · rename_i h; subst h; rfl
  · rename_i h
    have hb := b.isLt
    have h0 : b.toNat ≠ 0 := fun e => h (BitVec.eq_of_toNat_eq (by simpa using e))
    rw [BitVec.toNat_sub_of_le] <;> simp [BitVec.le_def]
    omega

theorem tickBeep_iff : tickBeep s = true ↔ s.st.toNat = 1 := by
  simp [tickBeep, ← BitVec.toNat_inj]

/-! ## Reset (R7, R260) -/

/-- Reset under the default FONT is `State.reset`. -/
theorem resetWith_default : State.resetWith defaultFont = State.reset := by
  rw [State.resetWith, fontMemory_default]
  rfl

variable (font : FontTable)

@[simp] theorem resetWith_reg (r : Reg) : (State.resetWith font).reg r = 0 := by
  simp [State.resetWith, State.reset, State.reg]

@[simp] theorem resetWith_i : (State.resetWith font).i = 0 := rfl

@[simp] theorem resetWith_pc : (State.resetWith font).pc = 0x200 := rfl

@[simp] theorem resetWith_sp : (State.resetWith font).sp = 0 := rfl

@[simp] theorem resetWith_stack : (State.resetWith font).stack = Vector.replicate 16 0 := rfl

@[simp] theorem resetWith_dt : (State.resetWith font).dt = 0 := rfl

@[simp] theorem resetWith_st : (State.resetWith font).st = 0 := rfl

@[simp] theorem resetWith_key : (State.resetWith font).key = Vector.replicate 16 false := rfl

@[simp] theorem resetWith_mem : (State.resetWith font).mem = fontMemory font := rfl

@[simp] theorem resetWith_disp : (State.resetWith font).disp = 0 := rfl

@[simp] theorem resetWith_displayChanged : (State.resetWith font).displayChanged = false := rfl

end Sys2Proof.Machine
end

