-- ==== Sys2Proof/Laws/PerInstr.lean ====
section
/-! SUPPORT. The family of statements made per instruction: the encoded word of an instruction selects a row of the opcode map
(30_encoding.md R74, R76), and that row's fields give the instruction back (R71, R81). One lemma per constructor. -/

open Sys2Proof

/-- The word of `i` selects a row of the table, and the row builds `i` from it. -/
def Sys2Proof.Laws.EncodesInItsRow.Statement (i : Instr) : Prop :=
  ∃ r ∈ opcodeRows, r.selects (encode i) = true ∧ r.build (encode i) = i

/-- The row at a place of the table is in the table. -/
theorem Sys2Proof.Laws.EncodesInItsRow.ofRow {i : Instr} (k : Nat) (hk : k < opcodeRows.length)
    (hs : (opcodeRows[k]).selects (encode i) = true) (hb : (opcodeRows[k]).build (encode i) = i) :
    Sys2Proof.Laws.EncodesInItsRow.Statement i :=
  ⟨opcodeRows[k], List.getElem_mem hk, hs, hb⟩

theorem Sys2Proof.Laws.EncodesInItsRow.cls : Sys2Proof.Laws.EncodesInItsRow.Statement .cls :=
  Sys2Proof.Laws.EncodesInItsRow.ofRow 0 (by decide) rfl
    rfl

theorem Sys2Proof.Laws.EncodesInItsRow.ret : Sys2Proof.Laws.EncodesInItsRow.Statement .ret :=
  Sys2Proof.Laws.EncodesInItsRow.ofRow 1 (by decide) rfl
    rfl

theorem Sys2Proof.Laws.EncodesInItsRow.jp (nnn : Addr) : Sys2Proof.Laws.EncodesInItsRow.Statement (.jp nnn) :=
  Sys2Proof.Laws.EncodesInItsRow.ofRow 2 (by decide) (beq_iff_eq.mpr (mask_wordAddr 0x1 nnn))
    (congrArg Instr.jp (fieldNNN_wordAddr 0x1 nnn))

theorem Sys2Proof.Laws.EncodesInItsRow.call (nnn : Addr) : Sys2Proof.Laws.EncodesInItsRow.Statement (.call nnn) :=
  Sys2Proof.Laws.EncodesInItsRow.ofRow 3 (by decide) (beq_iff_eq.mpr (mask_wordAddr 0x2 nnn))
    (congrArg Instr.call (fieldNNN_wordAddr 0x2 nnn))

theorem Sys2Proof.Laws.EncodesInItsRow.seImm (x : Reg) (nn : Byte) : Sys2Proof.Laws.EncodesInItsRow.Statement (.seImm x nn) :=
  Sys2Proof.Laws.EncodesInItsRow.ofRow 6 (by decide) (beq_iff_eq.mpr (mask_wordRegByte 0x3 x nn))
    (congrArg₂ Instr.seImm (fieldX_wordRegByte 0x3 x nn) (fieldNN_wordRegByte 0x3 x nn))

theorem Sys2Proof.Laws.EncodesInItsRow.sneImm (x : Reg) (nn : Byte) : Sys2Proof.Laws.EncodesInItsRow.Statement (.sneImm x nn) :=
  Sys2Proof.Laws.EncodesInItsRow.ofRow 7 (by decide) (beq_iff_eq.mpr (mask_wordRegByte 0x4 x nn))
    (congrArg₂ Instr.sneImm (fieldX_wordRegByte 0x4 x nn) (fieldNN_wordRegByte 0x4 x nn))

theorem Sys2Proof.Laws.EncodesInItsRow.seReg (x y : Reg) : Sys2Proof.Laws.EncodesInItsRow.Statement (.seReg x y) :=
  Sys2Proof.Laws.EncodesInItsRow.ofRow 11 (by decide) (beq_iff_eq.mpr (maskSub_wordRegReg 0x5 x y 0x0))
    (congrArg₂ Instr.seReg (fieldX_wordRegReg 0x5 x y 0x0) (fieldY_wordRegReg 0x5 x y 0x0))

theorem Sys2Proof.Laws.EncodesInItsRow.ldImm (x : Reg) (nn : Byte) : Sys2Proof.Laws.EncodesInItsRow.Statement (.ldImm x nn) :=
  Sys2Proof.Laws.EncodesInItsRow.ofRow 8 (by decide) (beq_iff_eq.mpr (mask_wordRegByte 0x6 x nn))
    (congrArg₂ Instr.ldImm (fieldX_wordRegByte 0x6 x nn) (fieldNN_wordRegByte 0x6 x nn))

theorem Sys2Proof.Laws.EncodesInItsRow.addImm (x : Reg) (nn : Byte) : Sys2Proof.Laws.EncodesInItsRow.Statement (.addImm x nn) :=
  Sys2Proof.Laws.EncodesInItsRow.ofRow 9 (by decide) (beq_iff_eq.mpr (mask_wordRegByte 0x7 x nn))
    (congrArg₂ Instr.addImm (fieldX_wordRegByte 0x7 x nn) (fieldNN_wordRegByte 0x7 x nn))

theorem Sys2Proof.Laws.EncodesInItsRow.ldReg (x y : Reg) : Sys2Proof.Laws.EncodesInItsRow.Statement (.ldReg x y) :=
  Sys2Proof.Laws.EncodesInItsRow.ofRow 12 (by decide) (beq_iff_eq.mpr (maskSub_wordRegReg 0x8 x y 0x0))
    (congrArg₂ Instr.ldReg (fieldX_wordRegReg 0x8 x y 0x0) (fieldY_wordRegReg 0x8 x y 0x0))

theorem Sys2Proof.Laws.EncodesInItsRow.or (x y : Reg) : Sys2Proof.Laws.EncodesInItsRow.Statement (.or x y) :=
  Sys2Proof.Laws.EncodesInItsRow.ofRow 13 (by decide) (beq_iff_eq.mpr (maskSub_wordRegReg 0x8 x y 0x1))
    (congrArg₂ Instr.or (fieldX_wordRegReg 0x8 x y 0x1) (fieldY_wordRegReg 0x8 x y 0x1))

theorem Sys2Proof.Laws.EncodesInItsRow.and (x y : Reg) : Sys2Proof.Laws.EncodesInItsRow.Statement (.and x y) :=
  Sys2Proof.Laws.EncodesInItsRow.ofRow 14 (by decide) (beq_iff_eq.mpr (maskSub_wordRegReg 0x8 x y 0x2))
    (congrArg₂ Instr.and (fieldX_wordRegReg 0x8 x y 0x2) (fieldY_wordRegReg 0x8 x y 0x2))

theorem Sys2Proof.Laws.EncodesInItsRow.xor (x y : Reg) : Sys2Proof.Laws.EncodesInItsRow.Statement (.xor x y) :=
  Sys2Proof.Laws.EncodesInItsRow.ofRow 15 (by decide) (beq_iff_eq.mpr (maskSub_wordRegReg 0x8 x y 0x3))
    (congrArg₂ Instr.xor (fieldX_wordRegReg 0x8 x y 0x3) (fieldY_wordRegReg 0x8 x y 0x3))

theorem Sys2Proof.Laws.EncodesInItsRow.addReg (x y : Reg) : Sys2Proof.Laws.EncodesInItsRow.Statement (.addReg x y) :=
  Sys2Proof.Laws.EncodesInItsRow.ofRow 16 (by decide) (beq_iff_eq.mpr (maskSub_wordRegReg 0x8 x y 0x4))
    (congrArg₂ Instr.addReg (fieldX_wordRegReg 0x8 x y 0x4) (fieldY_wordRegReg 0x8 x y 0x4))

theorem Sys2Proof.Laws.EncodesInItsRow.sub (x y : Reg) : Sys2Proof.Laws.EncodesInItsRow.Statement (.sub x y) :=
  Sys2Proof.Laws.EncodesInItsRow.ofRow 17 (by decide) (beq_iff_eq.mpr (maskSub_wordRegReg 0x8 x y 0x5))
    (congrArg₂ Instr.sub (fieldX_wordRegReg 0x8 x y 0x5) (fieldY_wordRegReg 0x8 x y 0x5))

theorem Sys2Proof.Laws.EncodesInItsRow.shr (x y : Reg) : Sys2Proof.Laws.EncodesInItsRow.Statement (.shr x y) :=
  Sys2Proof.Laws.EncodesInItsRow.ofRow 18 (by decide) (beq_iff_eq.mpr (maskSub_wordRegReg 0x8 x y 0x6))
    (congrArg₂ Instr.shr (fieldX_wordRegReg 0x8 x y 0x6) (fieldY_wordRegReg 0x8 x y 0x6))

theorem Sys2Proof.Laws.EncodesInItsRow.subn (x y : Reg) : Sys2Proof.Laws.EncodesInItsRow.Statement (.subn x y) :=
  Sys2Proof.Laws.EncodesInItsRow.ofRow 19 (by decide) (beq_iff_eq.mpr (maskSub_wordRegReg 0x8 x y 0x7))
    (congrArg₂ Instr.subn (fieldX_wordRegReg 0x8 x y 0x7) (fieldY_wordRegReg 0x8 x y 0x7))

theorem Sys2Proof.Laws.EncodesInItsRow.shl (x y : Reg) : Sys2Proof.Laws.EncodesInItsRow.Statement (.shl x y) :=
  Sys2Proof.Laws.EncodesInItsRow.ofRow 20 (by decide) (beq_iff_eq.mpr (maskSub_wordRegReg 0x8 x y 0xE))
    (congrArg₂ Instr.shl (fieldX_wordRegReg 0x8 x y 0xE) (fieldY_wordRegReg 0x8 x y 0xE))

theorem Sys2Proof.Laws.EncodesInItsRow.sneReg (x y : Reg) : Sys2Proof.Laws.EncodesInItsRow.Statement (.sneReg x y) :=
  Sys2Proof.Laws.EncodesInItsRow.ofRow 21 (by decide) (beq_iff_eq.mpr (maskSub_wordRegReg 0x9 x y 0x0))
    (congrArg₂ Instr.sneReg (fieldX_wordRegReg 0x9 x y 0x0) (fieldY_wordRegReg 0x9 x y 0x0))

theorem Sys2Proof.Laws.EncodesInItsRow.ldI (nnn : Addr) : Sys2Proof.Laws.EncodesInItsRow.Statement (.ldI nnn) :=
  Sys2Proof.Laws.EncodesInItsRow.ofRow 4 (by decide) (beq_iff_eq.mpr (mask_wordAddr 0xA nnn))
    (congrArg Instr.ldI (fieldNNN_wordAddr 0xA nnn))

theorem Sys2Proof.Laws.EncodesInItsRow.jpV0 (nnn : Addr) : Sys2Proof.Laws.EncodesInItsRow.Statement (.jpV0 nnn) :=
  Sys2Proof.Laws.EncodesInItsRow.ofRow 5 (by decide) (beq_iff_eq.mpr (mask_wordAddr 0xB nnn))
    (congrArg Instr.jpV0 (fieldNNN_wordAddr 0xB nnn))

theorem Sys2Proof.Laws.EncodesInItsRow.rnd (x : Reg) (nn : Byte) : Sys2Proof.Laws.EncodesInItsRow.Statement (.rnd x nn) :=
  Sys2Proof.Laws.EncodesInItsRow.ofRow 10 (by decide) (beq_iff_eq.mpr (mask_wordRegByte 0xC x nn))
    (congrArg₂ Instr.rnd (fieldX_wordRegByte 0xC x nn) (fieldNN_wordRegByte 0xC x nn))

theorem Sys2Proof.Laws.EncodesInItsRow.drw (x y : Reg) (n : Nib) : Sys2Proof.Laws.EncodesInItsRow.Statement (.drw x y n) :=
  Sys2Proof.Laws.EncodesInItsRow.ofRow 22 (by decide) (beq_iff_eq.mpr (mask_wordRegReg 0xD x y n))
    (by
      show Instr.drw (fieldX (wordRegReg 0xD x y n)) (fieldY (wordRegReg 0xD x y n)) (fieldN (wordRegReg 0xD x y n)) = _
      rw [fieldX_wordRegReg, fieldY_wordRegReg, fieldN_wordRegReg])

theorem Sys2Proof.Laws.EncodesInItsRow.skp (x : Reg) : Sys2Proof.Laws.EncodesInItsRow.Statement (.skp x) :=
  Sys2Proof.Laws.EncodesInItsRow.ofRow 23 (by decide) (beq_iff_eq.mpr (maskSub_wordRegByte 0xE x 0x9E))
    (congrArg Instr.skp (fieldX_wordRegByte 0xE x 0x9E))

theorem Sys2Proof.Laws.EncodesInItsRow.sknp (x : Reg) : Sys2Proof.Laws.EncodesInItsRow.Statement (.sknp x) :=
  Sys2Proof.Laws.EncodesInItsRow.ofRow 24 (by decide) (beq_iff_eq.mpr (maskSub_wordRegByte 0xE x 0xA1))
    (congrArg Instr.sknp (fieldX_wordRegByte 0xE x 0xA1))

theorem Sys2Proof.Laws.EncodesInItsRow.ldVxDt (x : Reg) : Sys2Proof.Laws.EncodesInItsRow.Statement (.ldVxDt x) :=
  Sys2Proof.Laws.EncodesInItsRow.ofRow 25 (by decide) (beq_iff_eq.mpr (maskSub_wordRegByte 0xF x 0x07))
    (congrArg Instr.ldVxDt (fieldX_wordRegByte 0xF x 0x07))

theorem Sys2Proof.Laws.EncodesInItsRow.ldVxK (x : Reg) : Sys2Proof.Laws.EncodesInItsRow.Statement (.ldVxK x) :=
  Sys2Proof.Laws.EncodesInItsRow.ofRow 26 (by decide) (beq_iff_eq.mpr (maskSub_wordRegByte 0xF x 0x0A))
    (congrArg Instr.ldVxK (fieldX_wordRegByte 0xF x 0x0A))

theorem Sys2Proof.Laws.EncodesInItsRow.ldDtVx (x : Reg) : Sys2Proof.Laws.EncodesInItsRow.Statement (.ldDtVx x) :=
  Sys2Proof.Laws.EncodesInItsRow.ofRow 27 (by decide) (beq_iff_eq.mpr (maskSub_wordRegByte 0xF x 0x15))
    (congrArg Instr.ldDtVx (fieldX_wordRegByte 0xF x 0x15))

theorem Sys2Proof.Laws.EncodesInItsRow.ldStVx (x : Reg) : Sys2Proof.Laws.EncodesInItsRow.Statement (.ldStVx x) :=
  Sys2Proof.Laws.EncodesInItsRow.ofRow 28 (by decide) (beq_iff_eq.mpr (maskSub_wordRegByte 0xF x 0x18))
    (congrArg Instr.ldStVx (fieldX_wordRegByte 0xF x 0x18))

theorem Sys2Proof.Laws.EncodesInItsRow.addI (x : Reg) : Sys2Proof.Laws.EncodesInItsRow.Statement (.addI x) :=
  Sys2Proof.Laws.EncodesInItsRow.ofRow 29 (by decide) (beq_iff_eq.mpr (maskSub_wordRegByte 0xF x 0x1E))
    (congrArg Instr.addI (fieldX_wordRegByte 0xF x 0x1E))

theorem Sys2Proof.Laws.EncodesInItsRow.ldF (x : Reg) : Sys2Proof.Laws.EncodesInItsRow.Statement (.ldF x) :=
  Sys2Proof.Laws.EncodesInItsRow.ofRow 30 (by decide) (beq_iff_eq.mpr (maskSub_wordRegByte 0xF x 0x29))
    (congrArg Instr.ldF (fieldX_wordRegByte 0xF x 0x29))

theorem Sys2Proof.Laws.EncodesInItsRow.ldB (x : Reg) : Sys2Proof.Laws.EncodesInItsRow.Statement (.ldB x) :=
  Sys2Proof.Laws.EncodesInItsRow.ofRow 31 (by decide) (beq_iff_eq.mpr (maskSub_wordRegByte 0xF x 0x33))
    (congrArg Instr.ldB (fieldX_wordRegByte 0xF x 0x33))

theorem Sys2Proof.Laws.EncodesInItsRow.stRegs (x : Reg) : Sys2Proof.Laws.EncodesInItsRow.Statement (.stRegs x) :=
  Sys2Proof.Laws.EncodesInItsRow.ofRow 32 (by decide) (beq_iff_eq.mpr (maskSub_wordRegByte 0xF x 0x55))
    (congrArg Instr.stRegs (fieldX_wordRegByte 0xF x 0x55))

theorem Sys2Proof.Laws.EncodesInItsRow.ldRegs (x : Reg) : Sys2Proof.Laws.EncodesInItsRow.Statement (.ldRegs x) :=
  Sys2Proof.Laws.EncodesInItsRow.ofRow 33 (by decide) (beq_iff_eq.mpr (maskSub_wordRegByte 0xF x 0x65))
    (congrArg Instr.ldRegs (fieldX_wordRegByte 0xF x 0x65))
end

