-- ==== Sys2Proof/Laws/Step.lean ====
section
/-! SUPPORT. What a step can do, said once: the fetch check, then the decoded instruction or `Unknown` (40_step_cycle.md R90). -/

namespace Sys2Proof.Machine

@[simp] theorem endStep_next {t : State} : endStep (.next t) = .next t.nextDraw := rfl

@[simp] theorem endStep_fault {f : Fault} : endStep (.fault f) = .fault f := rfl

@[simp] theorem endStep_refused {q : Refusal} : endStep (.refused q) = .refused q := rfl

theorem endStep_eq_next {r : Result} {t : State} : endStep r = .next t ↔ ∃ u, r = .next u ∧ t = u.nextDraw := by
  cases r <;> simp [endStep, eq_comm]

theorem endStep_eq_fault {r : Result} {f : Fault} : endStep r = .fault f ↔ r = .fault f := by
  cases r <;> simp [endStep]

theorem endStep_eq_refused {r : Result} {q : Refusal} : endStep r = .refused q ↔ r = .refused q := by
  cases r <;> simp [endStep]

theorem canFetch_iff {s : State} : s.canFetch = true ↔ s.pc.toNat ≤ 0xFFE := by simp [State.canFetch]

/-- Inside the fetch range a step is the execution of the decoded word (R90). -/
theorem step_of_canFetch {s : State} (h : s.pc.toNat ≤ 0xFFE) :
    step s = endStep (execTagged (decode s.fetched) s) := if_pos (canFetch_iff.mpr h)

/-- Outside it a step faults (R91). -/
theorem step_of_not_canFetch {s : State} (h : 0xFFE < s.pc.toNat) : step s = .fault (.fetchOutOfRange s.pc) :=
  if_neg (fun hc => by have := canFetch_iff.mp hc; omega)

/-- Everything a step that answers a next state has done. -/
theorem step_next {s t : State} (h : step s = .next t) :
    s.pc.toNat ≤ 0xFFE ∧
      ((∃ i u, decode s.fetched = .instr i ∧ exec i s = .next u ∧ t = u.nextDraw) ∨
        (∃ raw, decode s.fetched = .unknown raw ∧
          t = (s.advance.setResult ⟨false, .unknownOpcode raw⟩).nextDraw)) := by
  by_cases hp : s.pc.toNat ≤ 0xFFE
  · refine ⟨hp, ?_⟩
    rw [step_of_canFetch hp, endStep_eq_next] at h
    obtain ⟨u, hu, rfl⟩ := h
    cases hd : decode s.fetched with
    | instr i => exact .inl ⟨i, u, rfl, by simpa [hd, execTagged] using hu, rfl⟩
    | unknown raw =>
      refine .inr ⟨raw, rfl, ?_⟩
      rw [hd] at hu
      simp only [execTagged, execUnknown, completeUnknown, Host.Outcome.next.injEq] at hu
      rw [← hu]
  · rw [step_of_not_canFetch (by omega)] at h
    cases h

end Sys2Proof.Machine
end

