-- ==== Sys2Proof/Tests/Slice0.lean ====
section
/-! SUPPORT. The model's own tests: ill-formed terms that the checks refuse, the decoding of one word of every instruction written out
bit by bit from the patterns of 30_encoding.md R76, one step on small states with the results of 95_test_vectors.md (the vector is named
T<n> in the docstring), and a state that meets the hypotheses of every statement that has some. Nothing here is an obligation. -/

namespace Sys2Proof.Tests

open Sys2Proof Sys2Proof.Machine

/-! ## Helpers -/

/-- A state with some registers changed. -/
def regs (l : List (Reg × Byte)) (s : State) : State := l.foldl (fun t c => t.setReg c.1 c.2) s

/-- A state with some keys pressed. -/
def keys (l : List (Fin 16)) (s : State) : State := l.foldl (fun t k => setKey t k true) s

/-- A state with some bytes stored. -/
def bytes (a : Nat) (l : List Byte) (s : State) : State := s.setMem (Memory.writeBytes s.mem a l)

/-- The display whose lit cells are the ones listed, as the number with those bits (R33). -/
def lit (l : List (Nat × Nat)) : Display := BitVec.ofNat 2048 (l.foldl (fun n c => n + 2 ^ (c.1 + 64 * c.2)) 0)

/-- The next state of an outcome, if it is one. -/
def stateOf (r : Result) : Option State :=
  match r with
  | .next t => some t
  | .fault _ => none
  | .refused _ => none

/-- The fault of an outcome, if it is one. -/
def faultOf (r : Result) : Option Fault :=
  match r with
  | .next _ => none
  | .fault f => some f
  | .refused _ => none

/-- The state after one step that runs a word, if it completes. -/
def run (w : Nat) (s : State) : Option State := stateOf (step (s.withFetchWord 16 w))

/-- The fault of one step that runs a word, if it faults. -/
def fault (w : Nat) (s : State) : Option Fault := faultOf (step (s.withFetchWord 16 w))

/-! ## Ill-formed terms are refused -/

/-- 00E0 is an instruction's word, so `Unknown` may not carry it (R77); nor the last row's first word. -/
theorem test_wf_refuses_unknown_cls : Tagged.wf (.unknown 0x00E0) = false := by decide

theorem test_wf_refuses_unknown_ldRegs : Tagged.wf (.unknown 0xF065) = false := by decide

/-- 00E1 is on R77's list. -/
theorem test_wf_accepts_unknown : Tagged.wf (.unknown 0x00E1) = true := by decide

theorem test_memory_refuses_disorder : Memory.wf [(0x301, 1), (0x300, 1)] = false := by decide

theorem test_memory_refuses_repeat : Memory.wf [(0x300, 1), (0x300, 2)] = false := by decide

/-- Address 0 reads as the first font byte when it is not listed. -/
theorem test_memory_refuses_reset_byte : Memory.wf [(0x000, 0xF0)] = false := by decide

theorem test_memory_refuses_outside : Memory.wf [(0x1000, 1)] = false := by decide

/-- Writing what an unlisted address reads as takes the entry off the list. -/
theorem test_memory_write_back : Memory.write (Memory.write [] 0x300 7) 0x300 0 = [] := by decide

/-- Fewer than two bytes are rejected by name. -/
theorem test_decode_truncated :
    (match decodeBytes [0x12] with | .error e => some e | .ok _ => none) = some .truncated := by decide

/-! ## Decoding -/

theorem test_decode_cls : decodeTableWord 16 0b0000_0000_1110_0000 = some (.cls) := by decide

theorem test_decode_ret : decodeTableWord 16 0b0000_0000_1110_1110 = some (.ret) := by decide

theorem test_decode_jp : decodeTableWord 16 0b0001_1010_1011_1100 = some (.jp 0xABC) := by decide

theorem test_decode_call : decodeTableWord 16 0b0010_0011_0100_0101 = some (.call 0x345) := by decide

theorem test_decode_seImm : decodeTableWord 16 0b0011_1010_0000_0101 = some (.seImm 0xA 0x05) := by decide

theorem test_decode_sneImm : decodeTableWord 16 0b0100_1011_1100_0011 = some (.sneImm 0xB 0xC3) := by decide

theorem test_decode_seReg : decodeTableWord 16 0b0101_0001_0010_0000 = some (.seReg 0x1 0x2) := by decide

theorem test_decode_ldImm : decodeTableWord 16 0b0110_1010_1111_1110 = some (.ldImm 0xA 0xFE) := by decide

theorem test_decode_addImm : decodeTableWord 16 0b0111_0100_1000_0001 = some (.addImm 0x4 0x81) := by decide

theorem test_decode_ldReg : decodeTableWord 16 0b1000_0001_0010_0000 = some (.ldReg 0x1 0x2) := by decide

theorem test_decode_or : decodeTableWord 16 0b1000_0011_0100_0001 = some (.or 0x3 0x4) := by decide

theorem test_decode_and : decodeTableWord 16 0b1000_0101_0110_0010 = some (.and 0x5 0x6) := by decide

theorem test_decode_xor : decodeTableWord 16 0b1000_0111_1000_0011 = some (.xor 0x7 0x8) := by decide

theorem test_decode_addReg : decodeTableWord 16 0b1000_1001_1010_0100 = some (.addReg 0x9 0xA) := by decide

theorem test_decode_sub : decodeTableWord 16 0b1000_1011_1100_0101 = some (.sub 0xB 0xC) := by decide

theorem test_decode_shr : decodeTableWord 16 0b1000_1101_1110_0110 = some (.shr 0xD 0xE) := by decide

theorem test_decode_subn : decodeTableWord 16 0b1000_1111_0000_0111 = some (.subn 0xF 0x0) := by decide

theorem test_decode_shl : decodeTableWord 16 0b1000_0010_0001_1110 = some (.shl 0x2 0x1) := by decide

theorem test_decode_sneReg : decodeTableWord 16 0b1001_0001_0010_0000 = some (.sneReg 0x1 0x2) := by decide

theorem test_decode_ldI : decodeTableWord 16 0b1010_0011_0000_0001 = some (.ldI 0x301) := by decide

theorem test_decode_jpV0 : decodeTableWord 16 0b1011_1111_0000_1111 = some (.jpV0 0xF0F) := by decide

theorem test_decode_rnd : decodeTableWord 16 0b1100_0001_0000_1111 = some (.rnd 0x1 0x0F) := by decide

theorem test_decode_drw : decodeTableWord 16 0b1101_0001_0010_0101 = some (.drw 0x1 0x2 0x5) := by decide

theorem test_decode_skp : decodeTableWord 16 0b1110_0011_1001_1110 = some (.skp 0x3) := by decide

theorem test_decode_sknp : decodeTableWord 16 0b1110_0100_1010_0001 = some (.sknp 0x4) := by decide

theorem test_decode_ldVxDt : decodeTableWord 16 0b1111_0010_0000_0111 = some (.ldVxDt 0x2) := by decide

theorem test_decode_ldVxK : decodeTableWord 16 0b1111_0101_0000_1010 = some (.ldVxK 0x5) := by decide

theorem test_decode_ldDtVx : decodeTableWord 16 0b1111_0110_0001_0101 = some (.ldDtVx 0x6) := by decide

theorem test_decode_ldStVx : decodeTableWord 16 0b1111_0111_0001_1000 = some (.ldStVx 0x7) := by decide

theorem test_decode_addI : decodeTableWord 16 0b1111_1000_0001_1110 = some (.addI 0x8) := by decide

theorem test_decode_ldF : decodeTableWord 16 0b1111_1010_0010_1001 = some (.ldF 0xA) := by decide

theorem test_decode_ldB : decodeTableWord 16 0b1111_0011_0011_0011 = some (.ldB 0x3) := by decide

theorem test_decode_stRegs : decodeTableWord 16 0b1111_1100_0101_0101 = some (.stRegs 0xC) := by decide

theorem test_decode_ldRegs : decodeTableWord 16 0b1111_1101_0110_0101 = some (.ldRegs 0xD) := by decide

/-! ## One step -/

/-- T88. -/
theorem test_cls :
    (run 0x00E0 (regs [(0xF, 1)] { State.reset with disp := lit [(5, 0), (63, 31)] })).map (fun t => (t.disp, t.displayChanged, t.reg vf, t.result)) =
      some (0, true, 1, ⟨true, .executed⟩) := by decide +kernel

/-- T6. -/
theorem test_ret :
    (run 0x00EE { State.reset with sp := 1, stack := State.reset.stack.set 0 0x456 }).map (fun t => (t.sp, t.pc, t.stack[0])) =
      some (0, 0x458, 0x456) := by decide

/-- T7. -/
theorem test_ret_empty :
    fault 0x00EE State.reset = some (.stackUnderflow 0x200) := by decide

/-- T1. -/
theorem test_jp :
    (run 0x1ABC State.reset).map (fun t => t.pc) = some 0xABC := by decide

/-- T4: the last free entry. -/
theorem test_call :
    (run 0x2345 { State.reset with sp := 15 }).map (fun t => (t.sp, t.pc, t.stack[15], t.stack[14])) =
      some (16, 0x345, 0x200, 0) := by decide

/-- T5. -/
theorem test_call_full :
    fault 0x2345 { State.reset with sp := 16 } = some (.stackOverflow 0x200) := by decide

/-- T11, T12. -/
theorem test_seImm :
    (run 0x3A05 (regs [(0xA, 5)] State.reset)).map (fun t => t.pc) = some 0x204 ∧
      (run 0x3A05 (regs [(0xA, 6)] State.reset)).map (fun t => t.pc) = some 0x202 := by decide

/-- T13, T14. -/
theorem test_sneImm :
    (run 0x4A05 (regs [(0xA, 5)] State.reset)).map (fun t => t.pc) = some 0x202 ∧
      (run 0x4A05 (regs [(0xA, 6)] State.reset)).map (fun t => t.pc) = some 0x204 := by decide

/-- T15, T16. -/
theorem test_seReg :
    (run 0x5120 (regs [(1, 7), (2, 7)] State.reset)).map (fun t => t.pc) = some 0x204 ∧
      (run 0x5120 (regs [(1, 7), (2, 8)] State.reset)).map (fun t => t.pc) = some 0x202 := by decide

/-- T18, T19. -/
theorem test_sneReg :
    (run 0x9120 (regs [(1, 7), (2, 7)] State.reset)).map (fun t => t.pc) = some 0x202 ∧
      (run 0x9120 (regs [(1, 7), (2, 8)] State.reset)).map (fun t => t.pc) = some 0x204 := by decide

/-- T31: VF as an ordinary destination. -/
theorem test_ldImm :
    (run 0x6F07 (regs [(0xF, 1)] State.reset)).map (fun t => (t.reg vf, t.pc)) = some (0x07, 0x202) := by decide

/-- T32: no carry flag. -/
theorem test_addImm :
    (run 0x7A01 (regs [(0xA, 0xFF)] State.reset)).map (fun t => (t.reg 0xA, t.reg vf)) = some (0, 0) := by decide

/-- T34. -/
theorem test_addImm_vf :
    (run 0x7FFF (regs [(0xF, 2)] State.reset)).map (fun t => t.reg vf) = some 0x01 := by decide

/-- T36. -/
theorem test_ldReg :
    (run 0x8120 (regs [(1, 1), (2, 0x99), (0xF, 1)] State.reset)).map (fun t => (t.reg 1, t.reg 2, t.reg vf)) = some (0x99, 0x99, 1) := by decide

/-- T38. -/
theorem test_or :
    (run 0x8121 (regs [(1, 0xF0), (2, 0x0F), (0xF, 1)] State.reset)).map (fun t => (t.reg 1, t.reg vf)) = some (0xFF, 1) := by decide

/-- T39. -/
theorem test_and :
    (run 0x8122 (regs [(1, 0xF0), (2, 0x3C), (0xF, 1)] State.reset)).map (fun t => (t.reg 1, t.reg vf)) = some (0x30, 1) := by decide

/-- T40. -/
theorem test_xor :
    (run 0x8123 (regs [(1, 0xF0), (2, 0x3C), (0xF, 1)] State.reset)).map (fun t => (t.reg 1, t.reg vf)) = some (0xCC, 1) := by decide

/-- T42, T43. -/
theorem test_addReg :
    (run 0x8124 (regs [(1, 0xFF), (2, 1)] State.reset)).map (fun t => (t.reg 1, t.reg vf)) = some (0, 1) ∧
      (run 0x8124 (regs [(1, 0xFE), (2, 1), (0xF, 1)] State.reset)).map (fun t => (t.reg 1, t.reg vf)) = some (0xFF, 0) := by decide

/-- T61, T67: X = F keeps the sum, Y = F reads the old VF. -/
theorem test_addReg_vf :
    (run 0x8F24 (regs [(0xF, 0xF0), (2, 0x20)] State.reset)).map (fun t => t.reg vf) = some 0x10 ∧
      (run 0x81F4 (regs [(1, 0xFF), (0xF, 2)] State.reset)).map (fun t => (t.reg 1, t.reg vf)) = some (1, 1) := by decide

/-- T47, T48. -/
theorem test_sub :
    (run 0x8125 (regs [(1, 3), (2, 0x0A)] State.reset)).map (fun t => (t.reg 1, t.reg vf)) = some (0xF9, 0) ∧
      (run 0x8125 (regs [(1, 7), (2, 7)] State.reset)).map (fun t => (t.reg 1, t.reg vf)) = some (0, 1) := by decide

/-- T62, T68. -/
theorem test_sub_vf :
    (run 0x8F25 (regs [(0xF, 5), (2, 7)] State.reset)).map (fun t => t.reg vf) = some 0xFE ∧
      (run 0x81F5 (regs [(1, 5), (0xF, 9)] State.reset)).map (fun t => (t.reg 1, t.reg vf)) = some (0xFC, 0) := by decide

/-- T50, T51. -/
theorem test_subn :
    (run 0x8127 (regs [(1, 3), (2, 0x0A)] State.reset)).map (fun t => (t.reg 1, t.reg vf)) = some (0x07, 1) ∧
      (run 0x8127 (regs [(1, 0x0A), (2, 3)] State.reset)).map (fun t => (t.reg 1, t.reg vf)) = some (0xF9, 0) := by decide

/-- T64, T69. -/
theorem test_subn_vf :
    (run 0x8F27 (regs [(0xF, 5), (2, 7)] State.reset)).map (fun t => t.reg vf) = some 0x02 ∧
      (run 0x81F7 (regs [(1, 5), (0xF, 9)] State.reset)).map (fun t => (t.reg 1, t.reg vf)) = some (0x04, 1) := by decide

/-- T53, T63: VY is ignored. -/
theorem test_shr :
    (run 0x8126 (regs [(1, 5), (2, 0xF0)] State.reset)).map (fun t => (t.reg 1, t.reg 2, t.reg vf)) = some (2, 0xF0, 1) ∧
      (run 0x8F26 (regs [(0xF, 5)] State.reset)).map (fun t => t.reg vf) = some 2 := by decide

/-- T59: the other value of SHIFT_SOURCE. -/
theorem test_shr_vy :
    (stateOf (shiftRightFrom .vy 1 2 (regs [(1, 5), (2, 0xF1)] State.reset))).map (fun t => (t.reg 1, t.reg 2, t.reg vf)) = some (0x78, 0xF1, 1) := by decide

/-- T56, T65: VY is ignored. -/
theorem test_shl :
    (run 0x812E (regs [(1, 0x81), (2, 1)] State.reset)).map (fun t => (t.reg 1, t.reg 2, t.reg vf)) = some (2, 1, 1) ∧
      (run 0x8F2E (regs [(0xF, 0x81)] State.reset)).map (fun t => t.reg vf) = some 2 := by decide

/-- T60: the other value of SHIFT_SOURCE. -/
theorem test_shl_vy :
    (stateOf (shiftLeftFrom .vy 1 2 (regs [(1, 1), (2, 0x81)] State.reset))).map (fun t => (t.reg 1, t.reg 2, t.reg vf)) = some (2, 0x81, 1) := by decide

/-- T77. -/
theorem test_ldI :
    (run 0xAFFF State.reset).map (fun t => t.i) = some 0xFFF := by decide

/-- T10: no reduction. -/
theorem test_jpV0 :
    (run 0xBFFF (regs [(0, 0xFF)] State.reset)).map (fun t => t.pc) = some 0x10FE := by decide

/-- T72. -/
theorem test_rnd :
    (run 0xC10F (regs [(1, 0xAA)] (supplyRand 0xB7 State.reset))).map (fun t => (t.reg 1, t.reg vf, t.randSupply)) = some (0x07, 0, []) := by decide

/-- T94: one collision. -/
theorem test_drw :
    (run 0xD011 (bytes 0x300 [0xF0] { State.reset with i := 0x300, disp := lit [(3, 0), (4, 0)] })).map (fun t => (t.disp, t.reg vf)) =
      some (lit [(0, 0), (1, 0), (2, 0), (4, 0)], 1) := by decide +kernel

/-- T99: both axes wrap. -/
theorem test_drw_wraps :
    (run 0xD012 (regs [(0, 62), (1, 31)] (bytes 0x300 [0xF0, 0x90] { State.reset with i := 0x300 }))).map (fun t => (t.disp, t.reg vf)) =
      some (lit [(62, 31), (63, 31), (0, 31), (1, 31), (62, 0), (1, 0)], 0) := by decide +kernel

/-- T120, T121. -/
theorem test_skp :
    (run 0xE39E (regs [(3, 7)] (keys [7] State.reset))).map (fun t => t.pc) = some 0x204 ∧
      (run 0xE39E (regs [(3, 7)] (keys [6, 8] State.reset))).map (fun t => t.pc) = some 0x202 := by decide

/-- T125. -/
theorem test_skp_index :
    fault 0xE39E (regs [(3, 0x10)] (keys [0] State.reset)) = some (.keyIndexOutOfRange 0x10) := by decide

/-- T122, T123. -/
theorem test_sknp :
    (run 0xE3A1 (regs [(3, 7)] (keys [7] State.reset))).map (fun t => t.pc) = some 0x202 ∧
      (run 0xE3A1 (regs [(3, 7)] State.reset)).map (fun t => t.pc) = some 0x204 := by decide

/-- T126. -/
theorem test_sknp_index :
    fault 0xE3A1 (regs [(3, 0xFF)] State.reset) = some (.keyIndexOutOfRange 0xFF) := by decide

/-- T134. -/
theorem test_ldVxDt :
    (run 0xF207 (regs [(2, 1)] { State.reset with dt := 0x2A })).map (fun t => (t.reg 2, t.dt)) = some (0x2A, 0x2A) := by decide

/-- T130: the lowest index. -/
theorem test_ldVxK :
    (run 0xF50A (keys [3, 9] State.reset)).map (fun t => (t.reg 5, t.pc, t.result.status)) = some (3, 0x202, .executed) := by decide

/-- T128. -/
theorem test_ldVxK_none :
    (run 0xF50A (regs [(5, 0xEE)] State.reset)).map (fun t => (t.reg 5, t.pc, t.result.status)) = some (0xEE, 0x200, .noProgress) := by decide

/-- T135. -/
theorem test_ldDtVx :
    (run 0xF215 (regs [(2, 0x3C)] State.reset)).map (fun t => (t.dt, t.st)) = some (0x3C, 0) := by decide

/-- T136. -/
theorem test_ldStVx :
    (run 0xF218 (regs [(2, 0x3C)] State.reset)).map (fun t => (t.st, t.dt)) = some (0x3C, 0) := by decide

/-- T83, T84. -/
theorem test_addI :
    (run 0xF11E (regs [(1, 1)] { State.reset with i := 0xFFF })).map (fun t => (t.i, t.reg vf)) = some (0, 1) ∧
      (run 0xF11E (regs [(1, 0x0F), (0xF, 1)] { State.reset with i := 0xFF0 })).map (fun t => (t.i, t.reg vf)) = some (0xFFF, 0) := by decide

/-- T87: the old VF is the addend. -/
theorem test_addI_vf :
    (run 0xFF1E (regs [(0xF, 3)] { State.reset with i := 0xFFE })).map (fun t => (t.i, t.reg vf)) = some (1, 1) := by decide

/-- T87b: the whole byte. -/
theorem test_ldF :
    (run 0xFA29 (regs [(0xA, 0x0F)] State.reset)).map (fun t => t.i) = some 0x04B ∧
      (run 0xFA29 (regs [(0xA, 0xFF)] State.reset)).map (fun t => t.i) = some 0x4FB := by decide

/-- T80: the highest legal I. -/
theorem test_ldB :
    (run 0xF333 (regs [(3, 157)] { State.reset with i := 0xFFD })).map
      (fun t => (Memory.read t.mem 0xFFD, Memory.read t.mem 0xFFE, Memory.read t.mem 0xFFF, t.i)) = some (1, 5, 7, 0xFFD) := by decide

/-- T81. -/
theorem test_ldB_range :
    fault 0xF333 (regs [(3, 157)] { State.reset with i := 0xFFE }) = some (.memoryOutOfRange 0x1000) := by decide

/-- T112: V4 is not stored. -/
theorem test_stRegs :
    (run 0xF355 (regs [(0, 0x11), (1, 0x22), (2, 0x33), (3, 0x44), (4, 0x55)] { State.reset with i := 0x300 })).map (fun t => (t.mem, t.i)) =
      some ([(0x200, 0xF3), (0x201, 0x55), (0x300, 0x11), (0x301, 0x22), (0x302, 0x33), (0x303, 0x44)], 0x304) := by decide

/-- T115. -/
theorem test_stRegs_range :
    fault 0xFF55 { State.reset with i := 0xFF1 } = some (.memoryOutOfRange 0x1000) := by decide

/-- T118: the default font. -/
theorem test_ldRegs :
    (run 0xFF65 State.reset).map (fun t => (t.v.toList, t.i)) =
      some ([0xF0, 0x90, 0x90, 0x90, 0xF0, 0x20, 0x60, 0x20, 0x20, 0x70, 0xF0, 0x10, 0xF0, 0x80, 0xF0, 0xF0], 0x010) := by decide

/-- T119: I leaves the 12-bit range. -/
theorem test_ldRegs_last :
    (run 0xF165 (bytes 0xFFE [0x12, 0x34] { State.reset with i := 0xFFE })).map (fun t => (t.reg 0, t.reg 1, t.i)) = some (0x12, 0x34, 0x1000) := by decide

/-- T20: no skip. -/
theorem test_unknown :
    (run 0x5121 (regs [(1, 7), (2, 7)] State.reset)).map (fun t => (t.pc, t.result)) = some (0x202, ⟨false, .unknownOpcode 0x5121⟩) := by decide

/-- T23, T24. -/
theorem test_fetch :
    (run 0x6000 { State.reset with pc := 0xFFE }).map (fun t => t.pc) = some 0x1000 ∧ nextFault { State.reset with pc := 0xFFF } = some (.fetchOutOfRange 0xFFF) := by decide

/-- T141: one beep, on the tick that takes ST from 1 to 0. -/
theorem test_tick :
    (runOps defaultFont [.tick, .tick, .tick] { State.reset with st := 2 }).2 = [.ticked false, .ticked true, .ticked false] := by decide

/-- T153: exactly the payload is copied. -/
theorem test_loadRom :
    (loadRom State.reset [0x60, 0x12, 0x34]).1.mem = [(0x200, 0x60), (0x201, 0x12), (0x202, 0x34)] ∧ (loadRom State.reset [0x60, 0x12, 0x34]).2 = .ok := by decide

/-- The note after T111: after 00E0, `render_ack` clears the flag and 6XNN leaves it clear. -/
theorem test_renderAck :
    (run 0x00E0 State.reset).map (fun t => (run 0x6A05 (renderAck t)).map (fun u => u.displayChanged)) = some (some false) := by decide

/-! ## Witnesses: a state and operands that meet the hypotheses of each statement that has some, at a boundary of their range -/

/-- A state about to run a word at pc. -/
def at_ (pc : Word) (w : Nat) (s : State) : State := { s with pc := pc }.withFetchWord 16 w

theorem witness_DecodeOfEncodeGivesItBack :
    Tagged.wf (.instr (.drw 0xF 0xF 0xF)) = true ∧ Tagged.wf (.unknown 0xFFFF) = true := by decide

theorem witness_UnknownExactlyOnListedWords : isUnknownWord 0x00E1 = true ∧ isUnknownWord 0x00E0 = false := by decide

/-- Both clauses: 1200 at the last address a fetch may start at completes, 00EE there faults. -/
theorem witness_StepRunsDecodedInstruction :
    (at_ 0xFFE 0x1200 State.reset).pc.toNat ≤ 0xFFE ∧
    decode (wordOfBytes (Memory.read (at_ 0xFFE 0x1200 State.reset).mem 0xFFE) (Memory.read (at_ 0xFFE 0x1200 State.reset).mem 0xFFF)) =
      .instr (.jp 0x200) ∧
    (stateOf (exec (.jp 0x200) (at_ 0xFFE 0x1200 State.reset))).isSome = true ∧
    decode (wordOfBytes (Memory.read (at_ 0xFFE 0x00EE State.reset).mem 0xFFE) (Memory.read (at_ 0xFFE 0x00EE State.reset).mem 0xFFF)) =
      .instr .ret ∧
    faultOf (exec .ret (at_ 0xFFE 0x00EE State.reset)) = some (.stackUnderflow 0xFFE) := by decide

theorem witness_UnknownWordIsReportedAndSkipped :
    (at_ 0xFFE 0xF000 State.reset).pc.toNat ≤ 0xFFE ∧
    decode (wordOfBytes (Memory.read (at_ 0xFFE 0xF000 State.reset).mem 0xFFE) (Memory.read (at_ 0xFFE 0xF000 State.reset).mem 0xFFF)) =
      .unknown 0xF000 := by decide

theorem witness_FetchOutsideMemoryFaults : 0xFFE < ({ State.reset with pc := 0xFFF } : State).pc.toNat := by decide

/-- One state on each side, for the fetch check and for an instruction's own condition. -/
theorem witness_StepFaultsExactlyAsListed :
    nextFault { State.reset with pc := 0xFFF } = some (.fetchOutOfRange 0xFFF) ∧
    nextFault { State.reset with pc := 0xFFE } = none ∧
    nextFault (at_ 0x200 0xD012 { State.reset with i := 0xFFF }) = some (.memoryOutOfRange 0x1000) ∧
    nextFault (at_ 0x200 0xD011 { State.reset with i := 0xFFF }) = none := by decide

theorem reset_inv : State.reset.Inv := ⟨by decide, by decide, by decide, by decide⟩

/-- The premises hold of a state about to leave the 12-bit range: FF65 at 0xFFE with I = 0xFF0 leaves I and pc at 0x1000. -/
theorem witness_StepKeepsInvariant :
    (at_ 0xFFE 0xFF65 { State.reset with i := 0xFF0 }).Inv ∧
    (stateOf (step (at_ 0xFFE 0xFF65 { State.reset with i := 0xFF0 }))).map (fun t => (t.i, t.pc)) = some (0x1000, 0x1000) :=
  ⟨⟨by decide, by decide, by decide, by decide⟩, by decide⟩

theorem witness_EveryRunKeepsInvariant : State.reset.Inv := reset_inv

/-- The last font byte and the first byte that is 0, for the default FONT and for another. -/
theorem witness_ResetLeavesTheListedValues :
    Memory.read State.reset.mem 79 = 0x80 ∧ Memory.read State.reset.mem 80 = 0 ∧
    Memory.read (State.resetWith (Vector.replicate 80 7)).mem 79 = 7 ∧ Memory.read (State.resetWith (Vector.replicate 80 7)).mem 80 = 0 := by decide

theorem witness_PcFollowsTheTable :
    (stateOf (exec (.jpV0 0xFFF) (regs [(0, 0xFF)] State.reset))).isSome = true ∧
    (stateOf (exec (.ldVxK 5) State.reset)).isSome = true := by decide

theorem witness_OnlyListedStateIsWritten :
    (stateOf (exec (.stRegs 0xF) { State.reset with i := 0xFF0 })).isSome = true := by decide

/-- A step of each kind: one that draws, one that does not. -/
theorem witness_StickyFlagFollowsTheResult :
    (run 0xD011 State.reset).map (fun t => t.result.displayChanged) = some true ∧
    (run 0x6A05 State.reset).map (fun t => t.result.displayChanged) = some false := by decide

/-- The premise about `rand_byte` holds of CXNN with an equal supply and of any other instruction with another; both outcomes. -/
theorem witness_UnreadFieldsDoNotMatter :
    (∀ x nn, Instr.rnd 1 0x0F = .rnd x nn → State.reset.randSupply = State.reset.randSupply ∧ State.reset.draws = State.reset.draws) ∧
    (∀ x nn, Instr.ret = .rnd x nn → [0xB7#8] = State.reset.randSupply ∧ 7 = State.reset.draws) ∧
    (stateOf (exec (.rnd 1 0x0F) State.reset)).isSome = true ∧
    faultOf (exec .ret State.reset) = some (.stackUnderflow 0x200) :=
  ⟨fun _ _ _ => ⟨rfl, rfl⟩, fun _ _ h => (by cases h), by decide, by decide⟩

theorem witness_CallPushesItsOwnAddress : ({ State.reset with sp := 15 } : State).sp.val < 16 := by decide

theorem witness_CallOnFullStackFaults : ({ State.reset with sp := 16 } : State).sp = 16 := by decide

/-- The least and the greatest sp, with the index of the top entry. -/
theorem witness_ReturnPopsTheTopEntry :
    0 < ({ State.reset with sp := 1 } : State).sp.val ∧ (0 : Fin 16).val + 1 = ({ State.reset with sp := 1 } : State).sp.val ∧
    0 < ({ State.reset with sp := 16 } : State).sp.val ∧
      (15 : Fin 16).val + 1 = ({ State.reset with sp := 16 } : State).sp.val := by decide

theorem witness_ReturnOnEmptyStackFaults : State.reset.sp = 0 := by decide

/-- The state that the call leaves meets the inner premises, also with other registers. -/
theorem witness_ReturnResumesAfterTheCall :
    ({ State.reset with sp := 15 } : State).sp.val < 16 ∧
    (stateOf (exec (.call 0x345) { State.reset with sp := 15 })).map
      (fun t => (({ t with dt := 9 } : State).sp == t.sp, ({ t with dt := 9 } : State).stack == t.stack)) =
        some (true, true) := by decide

theorem witness_AddSetsCarry : (0xE : Reg) ≠ vf ∧ (0x0 : Reg) ≠ vf := by decide

theorem witness_SubtractsSetNoBorrow : (0xE : Reg) ≠ vf ∧ (0x0 : Reg) ≠ vf := by decide

theorem witness_ShiftsMoveOneBitIntoVf : (0xE : Reg) ≠ vf ∧ (0x0 : Reg) ≠ vf := by decide

/-- X = F, and Y = F with X other than F, which the inner premise asks for. -/
theorem witness_FlagWritersNamingVf :
    (((0xF : Reg) = vf ∨ (0x2 : Reg) = vf)) ∧ (((0xE : Reg) = vf ∨ (0xF : Reg) = vf) ∧ (0xE : Reg) ≠ vf) := by decide

theorem witness_DecimalDigitsAreStored : ({ State.reset with i := 0xFFD } : State).i.toNat + 2 ≤ 0xFFF := by decide

theorem witness_RegistersAreStored : ({ State.reset with i := 0xFF0 } : State).i.toNat + (0xF : Reg).toNat ≤ 0xFFF := by decide

theorem witness_RegistersAreLoaded : ({ State.reset with i := 0xFFF } : State).i.toNat + (0x0 : Reg).toNat ≤ 0xFFF := by decide

/-- The first address past the range, for each of the three clauses. -/
theorem witness_AccessOutsideMemoryFaults :
    (0 < (0x2 : Nib).toNat ∧ 0xFFF < ({ State.reset with i := 0xFFF } : State).i.toNat + (0x2 : Nib).toNat - 1) ∧
    0xFFF < ({ State.reset with i := 0xFFE } : State).i.toNat + 2 ∧
    0xFFF < ({ State.reset with i := 0xFFF } : State).i.toNat + (0x1 : Reg).toNat := by decide

/-- The state that FX55 leaves, with I set back and a register changed, meets the inner premises. -/
theorem witness_StoreThenLoadGivesRegistersBack :
    ({ State.reset with i := 0xFF0 } : State).i.toNat + (0xF : Reg).toNat ≤ 0xFFF ∧
    ∃ t, exec (.stRegs 0xF) { State.reset with i := 0xFF0 } = .next t ∧
      (∀ a, Memory.read ({ t with i := 0xFF0 }.setReg 3 9).mem a = Memory.read t.mem a) ∧
      ({ t with i := 0xFF0 }.setReg 3 9).i = 0xFF0 :=
  ⟨by decide, _, rfl, fun _ => rfl, rfl⟩

/-- T116: F155 with I at the following address. -/
theorem witness_NextFetchSeesTheStore :
    decode (at_ 0x200 0xF155 { State.reset with i := 0x202 }).fetched = .instr (.stRegs 0x1) ∧
    1 ≤ (0x1 : Reg).toNat ∧
    (at_ 0x200 0xF155 { State.reset with i := 0x202 }).i = (at_ 0x200 0xF155 { State.reset with i := 0x202 }).pc + 2 ∧
    (stateOf (step (at_ 0x200 0xF155 (regs [(0, 0x6A), (1, 0x42)] { State.reset with i := 0x202 })))).map (fun t => t.fetched) =
      some 0x6A42 := by decide

theorem witness_ClearZeroesEveryCell : 63 < 64 ∧ 31 < 32 := by decide

/-- N = 0 at any I, the last row at 0xFFF, and a cell on each side of the selection (T105). -/
theorem witness_DrawInvertsTheSelectedCells :
    ((0x0 : Nib).toNat = 0 ∨ ({ State.reset with i := 0xFFFF } : State).i.toNat + (0x0 : Nib).toNat - 1 ≤ 0xFFF) ∧
    ((0xF : Nib).toNat = 0 ∨ ({ State.reset with i := 0xFF1 } : State).i.toNat + (0xF : Nib).toNat - 1 ≤ 0xFFF) ∧
    Selects (bytes 0xFFF [0x80] State.reset).mem 0xFFF 63 31 1 63 31 ∧
    ¬Selects (bytes 0xFFF [0x80] State.reset).mem 0xFFF 63 31 1 62 31 := by
  refine ⟨by decide, by decide, ⟨0, by decide, 0, by decide, by decide, by decide, by decide⟩, ?_⟩
  rintro ⟨r, hr, c, hc, -, hx, -⟩
  omega

/-- The state that the first draw leaves meets the inner premises. -/
theorem witness_DrawingTwiceRestoresTheDisplay :
    ((0x1 : Nib).toNat = 0 ∨ ({ State.reset with i := 0xFFF } : State).i.toNat + (0x1 : Nib).toNat - 1 ≤ 0xFFF) ∧
    ∃ t, exec (.drw 0 1 1) { State.reset with i := 0xFFF } = .next t ∧ t.i = 0xFFF ∧
      t.reg 0 = State.reset.reg 0 ∧ t.reg 1 = State.reset.reg 1 ∧ (∀ a, Memory.read t.mem a = Memory.read State.reset.mem a) :=
  ⟨by decide, _, rfl, rfl, rfl, rfl, fun _ => rfl⟩

theorem witness_KeySkipsTestTheKeyOfVx : ((regs [(3, 15)] State.reset).reg 3).toNat < 16 := by decide

theorem witness_KeyIndexAboveFifteenFaults : 15 < ((regs [(3, 16)] State.reset).reg 3).toNat := by decide

/-- The highest key alone, and the lowest with others. -/
theorem witness_WaitTakesTheLeastPressedKey :
    ((keys [15] State.reset).key[(15 : Fin 16).val] = true ∧
      ∀ j : Fin 16, j < 15 → (keys [15] State.reset).key[j.val] = false) ∧
    ((keys [0, 9] State.reset).key[(0 : Fin 16).val] = true ∧
      ∀ j : Fin 16, j < 0 → (keys [0, 9] State.reset).key[j.val] = false) := by decide

theorem witness_WaitWithoutKeyMakesNoProgress : ∀ k : Fin 16, State.reset.key[k.val] = false := by decide

theorem witness_SoundTimerIsWrittenSilently : ({ State.reset with st := 1 } : State).reg 2 = 0 := by decide

/-- The longest payload that is accepted, with its last byte, and the shortest that is refused (T150, T151). -/
theorem witness_LoadRomCopiesOrRefuses :
    (List.replicate 0xE00 (0xAA#8)).length ≤ 0xE00 ∧ 0xDFF < (List.replicate 0xE00 (0xAA#8)).length ∧
    0xE00 < (List.replicate 0xE01 (0xAA#8)).length := by
  refine ⟨?_, ?_, ?_⟩ <;> rw [List.length_replicate] <;> decide

/-- P6's last step: 2200 with a full stack. -/
theorem witness_FaultRepeatsUntilStateChanges :
    faultOf (step (at_ 0x200 0x2200 { State.reset with sp := 16 })) = some (.stackOverflow 0x200) := by decide

/-- T2: 1200 at 0x200. -/
theorem witness_FinishedProgramStaysFinished : Finished (at_ 0x200 0x1200 State.reset) :=
  ⟨by decide, 0x200, by decide, by decide⟩

end Sys2Proof.Tests
end

/-! Scope: what reset leaves (00_scope.md R7, 70_reset_and_hazards.md R260) and the invariant of every run (R4, R273).
A rule for each operation on the state says how it keeps the invariant; the arms of `exec` are composed from these rules. -/

namespace Sys2Proof.Machine

/-! ## The invariant under each operation on the state

`State.Inv` speaks of memory, I, pc and the stack alone, so an operation on any other field keeps it as it stands. -/

section

variable {s : State}

theorem State.Inv.setReg (hs : s.Inv) {x : Reg} {b : Byte} : (s.setReg x b).Inv := hs

theorem State.Inv.setRegs (hs : s.Inv) {v : Regs} : (s.setRegs v).Inv := hs

theorem State.Inv.setFlag (hs : s.Inv) {f : Bool} : (s.setFlag f).Inv := hs

theorem State.Inv.setFlagThenResult (hs : s.Inv) {f : Bool} {x : Reg} {b : Byte} : (s.setFlagThenResult f x b).Inv := hs

theorem State.Inv.setDt (hs : s.Inv) {b : Byte} : (s.setDt b).Inv := hs

theorem State.Inv.setSt (hs : s.Inv) {b : Byte} : (s.setSt b).Inv := hs

theorem State.Inv.setDisplay (hs : s.Inv) {d : Display} : (s.setDisplay d).Inv := hs

theorem State.Inv.setResult (hs : s.Inv) {r : StepResult} : (s.setResult r).Inv := hs

theorem State.Inv.nextDraw (hs : s.Inv) : s.nextDraw.Inv := hs

theorem State.Inv.pop (hs : s.Inv) : s.pop.Inv := hs

theorem State.Inv.supplyRand (hs : s.Inv) {b : Byte} : (supplyRand b s).Inv := hs

theorem State.Inv.tickState (hs : s.Inv) : (tickState s).Inv := hs

theorem State.Inv.setKey (hs : s.Inv) {k : Fin 16} {p : Bool} : (setKey s k p).Inv := hs

theorem State.Inv.renderAck (hs : s.Inv) : (renderAck s).Inv := hs

theorem State.Inv.setI (hs : s.Inv) {w : Word} (hw : w.toNat ≤ 0x1000) : (s.setI w).Inv := by
  obtain ⟨hmem, -, hpc, hstack⟩ := hs
  exact ⟨hmem, hw, hpc, hstack⟩

theorem State.Inv.setPc (hs : s.Inv) {w : Word} (hw : w.toNat ≤ 0x10FE) : (s.setPc w).Inv := by
  obtain ⟨hmem, hi, -, hstack⟩ := hs
  exact ⟨hmem, hi, hw, hstack⟩

theorem State.Inv.setMem (hs : s.Inv) {m : Memory} (hm : Memory.wf m = true) : (s.setMem m).Inv := by
  obtain ⟨-, hi, hpc, hstack⟩ := hs
  exact ⟨hm, hi, hpc, hstack⟩

/-- A sequence of writes that ends inside memory keeps the canonical form, and with it the invariant. -/
theorem State.Inv.setMem_writeBytes (hs : s.Inv) {a : Nat} {bs : List Byte} (ha : a + bs.length ≤ memorySize) :
    (s.setMem (Memory.writeBytes s.mem a bs)).Inv := by
  obtain ⟨hmem, -⟩ := id hs
  exact hs.setMem (Memory.wf_writeBytes bs ha hmem)

/-- An instruction is fetched at 0xFFE or below, so going on from it, or skipping, stays in the range of pc (R23, R24). -/
theorem toNat_add_le {w k : Word} (hw : w.toNat ≤ 0xFFE) (hk : k.toNat ≤ 4) : (w + k).toNat ≤ 0x10FE := by
  rw [BitVec.toNat_add]
  omega

theorem State.Inv.advance (hs : s.Inv) (hpc : s.pc.toNat ≤ 0xFFE) : s.advance.Inv :=
  hs.setPc (toNat_add_le hpc (by decide))

theorem State.Inv.skipIf (hs : s.Inv) (hpc : s.pc.toNat ≤ 0xFFE) {c : Bool} : (s.skipIf c).Inv := by
  cases c with
  | false => exact hs.advance hpc
  | true => exact hs.setPc (toNat_add_le hpc (by decide))

/-- Only the address of a fetched instruction is pushed (R23, R112). -/
theorem State.Inv.push (hs : s.Inv) {w : Word} (hw : w.toNat ≤ 0xFFE) {h : s.sp.val < 16} : (s.push w h).Inv := by
  obtain ⟨hmem, hi, hpc, hstack⟩ := hs
  refine ⟨hmem, hi, hpc, fun k => ?_⟩
  rw [State.push_stack, Vector.getElem_set]
  split
  · exact hw
  · exact hstack k

theorem State.Inv.toNat_top_le (hs : s.Inv) (h : 0 < s.sp.val) : (s.top h).toNat ≤ 0xFFE := by
  obtain ⟨-, -, -, hstack⟩ := hs
  exact hstack ⟨s.sp.val - 1, by have := s.sp.isLt; omega⟩

end

/-! ## The invariant under one instruction -/

/-- If the result is a next state, that state meets the invariant. -/
def AnswersInv (r : Result) : Prop := ∀ t, r = .next t → t.Inv

section

variable {s u : State}

theorem answersInv_next (hu : u.Inv) : AnswersInv (.next u) := by
  intro t h
  cases h
  exact hu

theorem answersInv_complete (hu : u.Inv) : AnswersInv (complete u) := answersInv_next hu.setResult

theorem answersInv_completeDisplay (hu : u.Inv) : AnswersInv (completeDisplay u) := answersInv_next hu.setResult

theorem answersInv_noProgress (hu : u.Inv) : AnswersInv (noProgress u) := answersInv_next hu.setResult

theorem answersInv_raise {f : Fault} : AnswersInv (raise f) := fun _ h => absurd h raise_ne_next

theorem answersInv_checkRange {last : Nat} {body : Result} (hbody : last ≤ 0xFFF → AnswersInv body) :
    AnswersInv (checkRange last body) := by
  intro t h
  obtain ⟨hlast, hnext⟩ := checkRange_next h
  exact hbody hlast t hnext

theorem answersInv_withKey {b : Byte} {body : Bool → Result} (hbody : ∀ pressed, AnswersInv (body pressed)) :
    AnswersInv (withKey s b body) := by
  intro t h
  obtain ⟨_, hnext⟩ := withKey_next h
  exact hbody _ t hnext

/-- The shape of every instruction that goes on to the next one. -/
theorem answersInv_advance (hu : u.Inv) (hpc : u.pc.toNat ≤ 0xFFE) : AnswersInv (complete u.advance) :=
  answersInv_complete (hu.advance hpc)

/-- The shape of every conditional skip. -/
theorem answersInv_skipIf (hu : u.Inv) (hpc : u.pc.toNat ≤ 0xFFE) {c : Bool} : AnswersInv (complete (u.skipIf c)) :=
  answersInv_complete (hu.skipIf hpc)

/-- The shape of EX9E and EXA1, which skip on the key's flag or on its negation. -/
theorem answersInv_keySkip (hs : s.Inv) (hpc : s.pc.toNat ≤ 0xFFE) (b : Byte) (c : Bool → Bool) :
    AnswersInv (withKey s b fun pressed => complete (s.skipIf (c pressed))) :=
  answersInv_withKey fun _ => answersInv_skipIf hs hpc

theorem toNat_zextAddr (nnn : Addr) : (zextAddr nnn).toNat = nnn.toNat :=
  BitVec.toNat_setWidth_of_le (by decide)

theorem toNat_zextAddr_le (nnn : Addr) : (zextAddr nnn).toNat ≤ 0xFFF := by
  rw [toNat_zextAddr]
  have := nnn.isLt
  omega

/-- BNNN's target is at most 0xFFF + 0xFF, the highest pc there is (R24, R113). -/
theorem toNat_zextAddr_add_zextByte_le (nnn : Addr) (b : Byte) : (zextAddr nnn + zextByte b).toNat ≤ 0x10FE := by
  have hb : (zextByte b).toNat = b.toNat := BitVec.toNat_setWidth_of_le (by decide)
  have hlt := b.isLt
  have hn := toNat_zextAddr_le nnn
  rw [BitVec.toNat_add, hb]
  omega

theorem answersInv_execRet (hs : s.Inv) : AnswersInv (execRet s) := by
  rw [execRet]
  split
  · rename_i h
    exact answersInv_complete (hs.pop.setPc (toNat_add_le (hs.toNat_top_le h) (by decide)))
  · exact answersInv_raise

theorem answersInv_execCall (hs : s.Inv) (hpc : s.pc.toNat ≤ 0xFFE) (nnn : Addr) : AnswersInv (execCall nnn s) := by
  rw [execCall]
  split
  · exact answersInv_complete ((hs.push hpc).setPc ((toNat_zextAddr_le nnn).trans (by decide)))
  · exact answersInv_raise

theorem answersInv_execLdVxK (hs : s.Inv) (hpc : s.pc.toNat ≤ 0xFFE) (x : Reg) : AnswersInv (execLdVxK x s) := by
  cases hk : leastKey s with
  | none => rw [execLdVxK_of_none x hk]; exact answersInv_noProgress hs
  | some k => rw [execLdVxK_of_some x hk]; exact answersInv_advance hs.setReg hpc

/-- FX33 writes I to I + 2, inside memory by its range check. -/
theorem answersInv_execLdB (hs : s.Inv) (hpc : s.pc.toNat ≤ 0xFFE) (x : Reg) : AnswersInv (execLdB x s) :=
  answersInv_checkRange fun hlast => answersInv_advance
    (hs.setMem_writeBytes (by simp only [lastDigitAddress, length_decimalDigits, memorySize] at *; omega)) hpc

/-- FX55 writes I to I + X, inside memory by its range check, and leaves I just past the last byte. -/
theorem answersInv_execStRegs (hs : s.Inv) (hpc : s.pc.toNat ≤ 0xFFE) (x : Reg) : AnswersInv (execStRegs x s) :=
  answersInv_checkRange fun hlast => answersInv_advance
    ((hs.setMem_writeBytes (by simp only [lastRegAddress, State.length_regsUpTo, memorySize] at *; omega)).setI
      (by rw [State.toNat_indexPast s x hlast]; simp only [lastRegAddress] at hlast; omega)) hpc

theorem answersInv_execLdRegs (hs : s.Inv) (hpc : s.pc.toNat ≤ 0xFFE) (x : Reg) : AnswersInv (execLdRegs x s) :=
  answersInv_checkRange fun hlast => answersInv_advance
    (hs.setRegs.setI (by rw [State.toNat_indexPast s x hlast]; simp only [lastRegAddress] at hlast; omega)) hpc

/-- Every instruction executed inside the fetch range keeps the invariant. -/
theorem answersInv_exec (hs : s.Inv) (hpc : s.pc.toNat ≤ 0xFFE) (i : Instr) : AnswersInv (exec i s) := by
  cases i with
  | cls => exact answersInv_completeDisplay (hs.setDisplay.advance hpc)
  | drw => exact answersInv_checkRange fun _ => answersInv_completeDisplay (hs.setFlag.setDisplay.advance hpc)
  | ret => exact answersInv_execRet hs
  | jp nnn => exact answersInv_complete (hs.setPc ((toNat_zextAddr_le nnn).trans (by decide)))
  | call nnn => exact answersInv_execCall hs hpc nnn
  | jpV0 nnn => exact answersInv_complete (hs.setPc (toNat_zextAddr_add_zextByte_le nnn _))
  | seImm | sneImm | seReg | sneReg => exact answersInv_skipIf hs hpc
  | skp x => exact answersInv_keySkip hs hpc (s.reg x) id
  | sknp x => exact answersInv_keySkip hs hpc (s.reg x) not
  | ldImm | addImm | ldReg | or | and | xor | rnd | ldVxDt => exact answersInv_advance hs.setReg hpc
  | addReg | sub | shr | subn | shl => exact answersInv_advance hs.setFlagThenResult hpc
  | ldVxK x => exact answersInv_execLdVxK hs hpc x
  | ldDtVx => exact answersInv_advance hs.setDt hpc
  | ldStVx => exact answersInv_advance hs.setSt hpc
  | ldI nnn => exact answersInv_advance (hs.setI ((toNat_zextAddr_le nnn).trans (by decide))) hpc
  | addI x => exact answersInv_advance (hs.setFlag.setI (by rw [toNat_indexSum]; omega)) hpc
  | ldF x => exact answersInv_advance (hs.setI (by rw [toNat_glyphAddress]; have := (s.reg x).isLt; omega)) hpc
  | ldB x => exact answersInv_execLdB hs hpc x
  | stRegs x => exact answersInv_execStRegs hs hpc x
  | ldRegs x => exact answersInv_execLdRegs hs hpc x

/-- A step keeps the invariant: its fetch check bounds pc, then the decoded word is an instruction or `Unknown`. -/
theorem State.Inv.of_step {t : State} (hs : s.Inv) (h : step s = .next t) : t.Inv := by
  obtain ⟨hpc, ⟨i, u, -, hu, rfl⟩ | ⟨raw, -, rfl⟩⟩ := step_next h
  · exact (answersInv_exec hs hpc i u hu).nextDraw
  · exact (hs.advance hpc).setResult.nextDraw

end

/-! ## The invariant under the six operations -/

theorem inv_resetWith (font : FontTable) : (State.resetWith font).Inv := by
  refine ⟨Memory.wf_fontMemory font, Nat.zero_le _, by rw [resetWith_pc]; decide, fun k => ?_⟩
  rw [resetWith_stack, Vector.getElem_replicate]
  decide

theorem State.Inv.stepOp {s : State} (hs : s.Inv) (b : Byte) : (stepOp b s).1.Inv := by
  unfold Machine.stepOp
  split
  · rename_i hstep
    exact hs.supplyRand.of_step hstep
  · exact hs
  · exact hs

/-- The largest payload ends at the last byte of memory; a larger one is refused (R263). -/
theorem State.Inv.loadRom {s : State} (hs : s.Inv) (bytes : List Byte) : (loadRom s bytes).1.Inv := by
  unfold Machine.loadRom
  split
  · exact hs
  · rename_i hlen
    exact hs.setMem_writeBytes (by simp only [romMax, romBase, memorySize] at *; omega)

theorem State.Inv.applyOp {s : State} (hs : s.Inv) (font : FontTable) (o : Op) : (applyOp font o s).1.Inv := by
  cases o with
  | reset => exact inv_resetWith font
  | loadRom bytes => exact hs.loadRom bytes
  | step b => exact hs.stepOp b
  | tick => exact hs.tickState
  | setKey k p => exact hs.setKey
  | renderAck => exact hs.renderAck

/-- What every operation keeps, every run keeps. -/
theorem runOps_keeps {P : State → Prop} {font : FontTable} (hop : ∀ o s, P s → P (applyOp font o s).1)
    (ops : List Op) {s : State} (hs : P s) : P (runOps font ops s).1 := by
  induction ops generalizing s with
  | nil => exact hs
  | cons o rest ih => exact ih (hop o s hs)

/-- Settles O13, by induction over the operations: each of the six keeps the invariant. -/
theorem everyRunKeepsInvariant : Obligations.EveryRunKeepsInvariant :=
  fun font ops _ hs => runOps_keeps (fun o _ h => h.applyOp font o) ops hs

/-- Settles O11; `State.reset` is the reset state of the default FONT. -/
theorem resetMeetsInvariant : Obligations.ResetMeetsInvariant :=
  ⟨resetWith_default ▸ inv_resetWith defaultFont, inv_resetWith⟩

/-! ## What reset leaves -/

theorem Display.cell_zero (x y : Nat) : Display.cell 0 x y = false := BitVec.getLsbD_zero

theorem read_resetWith_of_lt (font : FontTable) {a : Nat} (h : a < 80) :
    Memory.read (State.resetWith font).mem a = font[a] := by
  rw [resetWith_mem, Memory.read_fontMemory, dif_pos h]

theorem read_resetWith_of_le (font : FontTable) {a : Nat} (h : 80 ≤ a) :
    Memory.read (State.resetWith font).mem a = 0 := by
  rw [resetWith_mem, Memory.read_fontMemory, dif_neg (Nat.not_lt.mpr h)]

/-- Settles O14, one listed value after another. -/
theorem resetLeavesTheListedValues : Obligations.ResetLeavesTheListedValues := by
  intro font s
  have hentries (k : Fin 16) : (State.resetWith font).stack[k.val] = 0 ∧ (State.resetWith font).key[k.val] = false := by
    simp
  exact ⟨resetWith_pc font, resetWith_reg font, resetWith_i font, resetWith_sp font, hentries, resetWith_dt font,
    resetWith_st font, Display.cell_zero, resetWith_displayChanged font, fun a => read_resetWith_of_lt font a.isLt,
    fun _ => read_resetWith_of_le font, resetWith_default.symm, rfl⟩

end Sys2Proof.Machine

/-! Scope: the rules about every instruction (10_state.md R20 to R37): pc, the state an instruction may write, the display
flag, and the fields no instruction reads. Each property of an answered state is proved from one rule per way an
instruction ends and one rule per operation on the state; the arms of `exec` are composed from these rules. -/

namespace Sys2Proof.Machine

/-- Settles O12: the invariant under the fetch check and under each arm of `exec` is `State.Inv.of_step`. -/
theorem stepKeepsInvariant : Obligations.StepKeepsInvariant :=
  fun _ _ hs h => hs.of_step h

/-! ## A property of the state an instruction answers -/

/-- If the result is a next state, that state has the property; `AnswersInv` is this at `State.Inv`. -/
def Answers (P : State → Prop) (r : Result) : Prop := ∀ t, r = .next t → P t

section

variable {P : State → Prop} {s u : State}

theorem answers_complete (hu : P (u.setResult ⟨false, .executed⟩)) : Answers P (complete u) :=
  fun _ h => complete_eq_next.mp h ▸ hu

theorem answers_completeDisplay (hu : P (u.setResult ⟨true, .executed⟩)) : Answers P (completeDisplay u) :=
  fun _ h => completeDisplay_eq_next.mp h ▸ hu

theorem answers_noProgress (hu : P (u.setResult ⟨false, .noProgress⟩)) : Answers P (noProgress u) :=
  fun _ h => noProgress_eq_next.mp h ▸ hu

theorem answers_raise {f : Fault} : Answers P (raise f) := fun _ h => absurd h raise_ne_next

theorem answers_checkRange {last : Nat} {body : Result} (hbody : Answers P body) : Answers P (checkRange last body) :=
  fun t h => hbody t (checkRange_next h).2

/-- The shape of EX9E and EXA1, which skip on the key's flag or on its negation. -/
theorem answers_keySkip {b : Byte} {c : Bool → Bool}
    (hskip : ∀ hb : b.toNat < 16, P ((s.skipIf (c s.key[b.toNat])).setResult ⟨false, .executed⟩)) :
    Answers P (withKey s b fun pressed => complete (s.skipIf (c pressed))) := by
  intro t h
  obtain ⟨hb, hnext⟩ := withKey_next h
  exact answers_complete (hskip hb) t hnext

theorem answers_execSkp {x : Reg}
    (hskip : ∀ h : (s.reg x).toNat < 16, P ((s.skipIf s.key[(s.reg x).toNat]).setResult ⟨false, .executed⟩)) :
    Answers P (execSkp x s) := answers_keySkip (c := id) hskip

theorem answers_execSknp {x : Reg}
    (hskip : ∀ h : (s.reg x).toNat < 16, P ((s.skipIf !s.key[(s.reg x).toNat]).setResult ⟨false, .executed⟩)) :
    Answers P (execSknp x s) := answers_keySkip (c := not) hskip

theorem answers_execRet
    (hpop : ∀ h : 0 < s.sp.val, P ((s.pop.setPc (s.top h + 2)).setResult ⟨false, .executed⟩)) :
    Answers P (execRet s) := by
  rw [execRet]
  split
  · exact answers_complete (hpop _)
  · exact answers_raise

theorem answers_execCall {nnn : Addr}
    (hpush : ∀ h : s.sp.val < 16, P (((s.push s.pc h).setPc (zextAddr nnn)).setResult ⟨false, .executed⟩)) :
    Answers P (execCall nnn s) := by
  rw [execCall]
  split
  · exact answers_complete (hpush _)
  · exact answers_raise

theorem answers_execLdVxK {x : Reg}
    (hsome : ∀ k, leastKey s = some k → P ((s.setReg x (BitVec.ofNat 8 k.val)).advance.setResult ⟨false, .executed⟩))
    (hnone : leastKey s = none → P (s.setResult ⟨false, .noProgress⟩)) : Answers P (execLdVxK x s) := by
  cases hk : leastKey s with
  | none => rw [execLdVxK_of_none x hk]; exact answers_noProgress (hnone hk)
  | some k => rw [execLdVxK_of_some x hk]; exact answers_complete (hsome k hk)

end

/-! ## pc (R23) -/

section

variable {s : State}

/-- pc after a skip, the condition as a proposition as the table of R23 has it. -/
theorem pc_skipIf {c : Bool} {p : Prop} [Decidable p] (h : c = true ↔ p) :
    (s.skipIf c).pc = if p then s.pc + 4 else s.pc + 2 := by
  rw [State.skipIf_pc]
  exact if_congr h rfl rfl

theorem State.top_eq_getD (h : 0 < s.sp.val) : s.top h = s.stack.toList.getD (s.sp.val - 1) 0 := by
  have hlt : s.sp.val - 1 < s.stack.toList.length := by simp; omega
  rw [List.getD_eq_getElem _ _ hlt]
  simp [State.top]

/-- BNNN's sum of words is the sum of its natural operands, modulo 65536 (R113). -/
theorem zextAddr_add_zextByte (nnn : Addr) (b : Byte) :
    zextAddr nnn + zextByte b = BitVec.ofNat 16 (nnn.toNat + b.toNat) := by
  rw [BitVec.ofNat_add, BitVec.ofNat_toNat, BitVec.ofNat_toNat]

theorem keyPressed_of_lt {k : Nat} (h : k < 16) : keyPressed s k = s.key[k] := dif_pos h

theorem exists_key_of_leastKey {k : Fin 16} (h : leastKey s = some k) : ∃ k : Fin 16, s.key[k.val] = true :=
  ⟨k, (leastKey_eq_some h).1⟩

theorem not_exists_key_of_leastKey (h : leastKey s = none) : ¬ ∃ k : Fin 16, s.key[k.val] = true := by
  simpa using leastKey_eq_none.mp h

/-- EX9E skips when the flag of its key is true (R190). -/
theorem pc_skipIf_keyPressed {k : Nat} (h : k < 16) :
    (s.skipIf s.key[k]).pc = if keyPressed s k then s.pc + 4 else s.pc + 2 := by
  rw [State.skipIf_pc, keyPressed_of_lt h]

/-- EXA1 skips when the flag of its key is false (R191). -/
theorem pc_skipIf_not_keyPressed {k : Nat} (h : k < 16) :
    (s.skipIf !s.key[k]).pc = if keyPressed s k then s.pc + 2 else s.pc + 4 := by
  rw [State.skipIf_pc, keyPressed_of_lt h]
  cases s.key[k] <;> rfl

theorem answers_pcAfter (i : Instr) (s : State) : Answers (fun t => t.pc = pcAfter i s) (exec i s) := by
  cases i with
  | cls => exact answers_completeDisplay rfl
  | drw => exact answers_checkRange (answers_completeDisplay rfl)
  | ret => exact answers_execRet fun h => congrArg (· + 2) (State.top_eq_getD h)
  | jp => exact answers_complete rfl
  | call => exact answers_execCall fun _ => rfl
  | jpV0 nnn => exact answers_complete (zextAddr_add_zextByte nnn _)
  | seImm | seReg => exact answers_complete (pc_skipIf beq_iff_eq)
  | sneImm | sneReg => exact answers_complete (pc_skipIf bne_iff_ne)
  | skp => exact answers_execSkp pc_skipIf_keyPressed
  | sknp => exact answers_execSknp pc_skipIf_not_keyPressed
  | ldVxK =>
    exact answers_execLdVxK (fun _ hk => (if_pos (exists_key_of_leastKey hk)).symm)
      (fun hk => (if_neg (not_exists_key_of_leastKey hk)).symm)
  | ldImm | addImm | ldReg | or | and | xor | addReg | sub | shr | subn | shl | rnd => exact answers_complete rfl
  | ldI | addI | ldF | ldVxDt | ldDtVx | ldStVx => exact answers_complete rfl
  | ldB | stRegs | ldRegs => exact answers_checkRange (answers_complete rfl)

end

/-- Settles O15, arm by arm: the pc each instruction leaves is its row of R23. -/
theorem pcFollowsTheTable : Obligations.PcFollowsTheTable :=
  fun i s => answers_pcAfter i s

/-! ## What each operation on the state leaves unchanged (R20, R21, R34)

A frame from `s` to `u` stays one when `u` is changed in a register or a part that the frame lists. pc and the result are
outside every frame. -/

section

variable {R : List Reg} {Q : List Part} {s u : State}

theorem Frame.refl (R : List Reg) (Q : List Part) (s : State) : Frame R Q s s :=
  ⟨fun _ _ => rfl, fun _ => rfl, fun _ => rfl, fun _ => rfl, fun _ => rfl, fun _ => rfl, fun _ => rfl,
    fun _ _ => rfl, fun _ => ⟨rfl, rfl⟩, rfl, rfl⟩

theorem Frame.setPc (hu : Frame R Q s u) {w : Word} : Frame R Q s (u.setPc w) := hu

theorem Frame.advance (hu : Frame R Q s u) : Frame R Q s u.advance := hu

theorem Frame.skipIf (hu : Frame R Q s u) {c : Bool} : Frame R Q s (u.skipIf c) := hu

theorem Frame.setResult (hu : Frame R Q s u) {r : StepResult} : Frame R Q s (u.setResult r) := hu

theorem Frame.setReg (hu : Frame R Q s u) {x : Reg} {b : Byte} (hx : x ∈ R) : Frame R Q s (u.setReg x b) := by
  obtain ⟨hregs, hparts⟩ := hu
  refine ⟨fun r hr => ?_, hparts⟩
  have hne : r ≠ x := fun h => hr (h ▸ hx)
  rw [State.reg_setReg, if_neg hne, hregs r hr]

theorem Frame.setFlag (hu : Frame R Q s u) {f : Bool} (hvf : vf ∈ R) : Frame R Q s (u.setFlag f) := hu.setReg hvf

theorem Frame.setFlagThenResult (hu : Frame R Q s u) {f : Bool} {x : Reg} {b : Byte} (hvf : vf ∈ R) (hx : x ∈ R) :
    Frame R Q s (u.setFlagThenResult f x b) := (hu.setFlag hvf).setReg hx

theorem Frame.setRegs (hu : Frame R Q s u) {v : Regs} (hv : ∀ r, r ∉ R → v[r.toNat] = s.reg r) :
    Frame R Q s (u.setRegs v) := by
  obtain ⟨-, hparts⟩ := hu
  exact ⟨hv, hparts⟩

theorem Frame.setI (hu : Frame R Q s u) {w : Word} (hQ : Part.index ∈ Q) : Frame R Q s (u.setI w) := by
  obtain ⟨hregs, -, hparts⟩ := hu
  exact ⟨hregs, absurd hQ, hparts⟩

theorem Frame.pop (hu : Frame R Q s u) (hQ : Part.sp ∈ Q) : Frame R Q s u.pop := by
  obtain ⟨hregs, hi, -, hparts⟩ := hu
  exact ⟨hregs, hi, absurd hQ, hparts⟩

theorem Frame.push (hu : Frame R Q s u) {w : Word} {h : u.sp.val < 16} (hsp : Part.sp ∈ Q)
    (hentries : Part.entries ∈ Q) : Frame R Q s (u.push w h) := by
  obtain ⟨hregs, hi, -, -, hparts⟩ := hu
  exact ⟨hregs, hi, absurd hsp, absurd hentries, hparts⟩

theorem Frame.setDt (hu : Frame R Q s u) {b : Byte} (hQ : Part.delay ∈ Q) : Frame R Q s (u.setDt b) := by
  obtain ⟨hregs, hi, hsp, hstack, -, hparts⟩ := hu
  exact ⟨hregs, hi, hsp, hstack, absurd hQ, hparts⟩

theorem Frame.setSt (hu : Frame R Q s u) {b : Byte} (hQ : Part.sound ∈ Q) : Frame R Q s (u.setSt b) := by
  obtain ⟨hregs, hi, hsp, hstack, hdt, -, hparts⟩ := hu
  exact ⟨hregs, hi, hsp, hstack, hdt, absurd hQ, hparts⟩

theorem Frame.setMem (hu : Frame R Q s u) {m : Memory} (hQ : Part.memory ∈ Q) : Frame R Q s (u.setMem m) := by
  obtain ⟨hregs, hi, hsp, hstack, hdt, hst, hkey, -, hparts⟩ := hu
  exact ⟨hregs, hi, hsp, hstack, hdt, hst, hkey, absurd hQ, hparts⟩

theorem Frame.setDisplay (hu : Frame R Q s u) {d : Display} (hQ : Part.display ∈ Q) :
    Frame R Q s (u.setDisplay d) := by
  obtain ⟨hregs, hi, hsp, hstack, hdt, hst, hkey, hmem, -, hdraws⟩ := hu
  exact ⟨hregs, hi, hsp, hstack, hdt, hst, hkey, hmem, absurd hQ, hdraws⟩

/-- What a frame that does not list the display says of it. -/
theorem Frame.display_eq (hu : Frame R Q s u) (hQ : Part.display ∉ Q) :
    u.disp = s.disp ∧ u.displayChanged = s.displayChanged := by
  obtain ⟨-, -, -, -, -, -, -, -, hdisplay, -⟩ := hu
  exact hdisplay hQ

end

/-! ## The state an instruction may write (R20, R21, R34, R54) -/

section

variable {s : State}

/-- FX65 may write V0 to VX (R20). -/
theorem mem_writtenRegs_ldRegs {x r : Reg} (h : r.toNat ≤ x.toNat) : r ∈ writtenRegs (.ldRegs x) :=
  List.mem_map.mpr ⟨r.toNat, List.mem_range.mpr (Nat.lt_succ_of_le h), by simp⟩

/-- FX65's loop leaves every register above VX as it was (R165). -/
theorem loadRegs_outside {m : Memory} {base : Nat} {x r : Reg} (hr : r ∉ writtenRegs (.ldRegs x)) :
    (loadRegs m base (x.toNat + 1) s.v)[r.toNat] = s.reg r := by
  have hlt : ¬ r.toNat < x.toNat + 1 := fun h => hr (mem_writtenRegs_ldRegs (Nat.le_of_lt_succ h))
  rw [getElem_loadRegs _ _ _ _ _ r.isLt, if_neg hlt, State.reg]

theorem answers_frame (i : Instr) (s : State) :
    Answers (Frame (writtenRegs i) (writtenParts i) s) (exec i s) := by
  have hs := Frame.refl (writtenRegs i) (writtenParts i) s
  cases i with
  | cls => exact answers_completeDisplay (hs.setDisplay List.mem_cons_self).advance.setResult
  | drw =>
    exact answers_checkRange (answers_completeDisplay
      ((hs.setFlag List.mem_cons_self).setDisplay List.mem_cons_self).advance.setResult)
  | ret => exact answers_execRet fun _ => (hs.pop List.mem_cons_self).setPc.setResult
  | jp | jpV0 => exact answers_complete hs.setPc.setResult
  | call =>
    have hentries : Part.entries ∈ [Part.sp, Part.entries] := by decide
    exact answers_execCall fun _ => (hs.push List.mem_cons_self hentries).setPc.setResult
  | seImm | sneImm | seReg | sneReg => exact answers_complete hs.skipIf.setResult
  | skp => exact answers_execSkp fun _ => hs.skipIf.setResult
  | sknp => exact answers_execSknp fun _ => hs.skipIf.setResult
  | ldImm | addImm | ldReg | or | and | xor | rnd | ldVxDt =>
    exact answers_complete (hs.setReg List.mem_cons_self).advance.setResult
  | ldVxK =>
    exact answers_execLdVxK (fun _ _ => (hs.setReg List.mem_cons_self).advance.setResult) (fun _ => hs.setResult)
  | addReg x | sub x | shr x | subn x | shl x =>
    have hvf : vf ∈ [x, vf] := List.mem_cons_of_mem x List.mem_cons_self
    exact answers_complete (hs.setFlagThenResult hvf List.mem_cons_self).advance.setResult
  | ldDtVx => exact answers_complete (hs.setDt List.mem_cons_self).advance.setResult
  | ldStVx => exact answers_complete (hs.setSt List.mem_cons_self).advance.setResult
  | ldI | ldF => exact answers_complete (hs.setI List.mem_cons_self).advance.setResult
  | addI => exact answers_complete ((hs.setFlag List.mem_cons_self).setI List.mem_cons_self).advance.setResult
  | ldB => exact answers_checkRange (answers_complete (hs.setMem List.mem_cons_self).advance.setResult)
  | stRegs =>
    have hindex : Part.index ∈ [Part.memory, Part.index] := by decide
    exact answers_checkRange (answers_complete ((hs.setMem List.mem_cons_self).setI hindex).advance.setResult)
  | ldRegs =>
    exact answers_checkRange (answers_complete
      ((hs.setRegs fun _ => loadRegs_outside).setI List.mem_cons_self).advance.setResult)

end

/-- Settles O16, arm by arm: each instruction writes through operations whose register or part its tables list. -/
theorem onlyListedStateIsWritten : Obligations.OnlyListedStateIsWritten :=
  fun i s => answers_frame i s

/-! ## The sticky display flag (R32, R96, R183) -/

section

variable {i : Instr} {s t : State}

/-- The display's mutators are 00E0 and DXYN (R34). -/
theorem display_mem_writtenParts : Part.display ∈ writtenParts i ↔ i = .cls ∨ ∃ x y n, i = .drw x y n := by
  cases i <;> simp [writtenParts]

/-- 00E0 and DXYN set the sticky flag and report the change (R32, R96). -/
theorem answers_displayChanged (hm : Part.display ∈ writtenParts i) :
    Answers (fun t => t.displayChanged = true ∧ t.result.displayChanged = true) (exec i s) := by
  obtain rfl | ⟨x, y, n, rfl⟩ := display_mem_writtenParts.mp hm
  · exact answers_completeDisplay ⟨rfl, rfl⟩
  · exact answers_checkRange (answers_completeDisplay ⟨rfl, rfl⟩)

/-- Every other instruction reports no change (R96). -/
theorem answers_not_displayChanged (hm : Part.display ∉ writtenParts i) :
    Answers (fun t => t.result.displayChanged = false) (exec i s) := by
  cases i with
  | cls | drw => exact absurd List.mem_cons_self hm
  | ret => exact answers_execRet fun _ => rfl
  | call => exact answers_execCall fun _ => rfl
  | ldVxK => exact answers_execLdVxK (fun _ _ => rfl) (fun _ => rfl)
  | skp => exact answers_execSkp fun _ => rfl
  | sknp => exact answers_execSknp fun _ => rfl
  | ldB | stRegs | ldRegs => exact answers_checkRange (answers_complete rfl)
  | _ => exact answers_complete rfl

/-- An instruction either may write the display and then reports it, or leaves the cells and the flag alone. -/
theorem exec_displayReport (h : exec i s = .next t) :
    t.displayChanged = (s.displayChanged || t.result.displayChanged) ∧
      (t.result.displayChanged = true ↔ Part.display ∈ writtenParts i) ∧
      (t.disp ≠ s.disp → t.result.displayChanged = true) := by
  by_cases hm : Part.display ∈ writtenParts i
  · obtain ⟨hflag, hresult⟩ := answers_displayChanged hm t h
    simp [hflag, hresult, hm]
  · obtain ⟨hdisp, hflag⟩ := (answers_frame i s t h).display_eq hm
    have hresult := answers_not_displayChanged hm t h
    simp [hdisp, hflag, hresult, hm]

end

/-- Settles O17: a decoded instruction by `exec_displayReport`; an `Unknown` word leaves the display and reports none. -/
theorem stickyFlagFollowsTheResult : Obligations.StickyFlagFollowsTheResult := by
  intro s t h
  obtain ⟨-, ⟨i, u, hd, hu, rfl⟩ | ⟨raw, hd, rfl⟩⟩ := step_next h
  · simpa [hd, display_mem_writtenParts] using exec_displayReport hu
  · simp [hd]

/-! ## The fields no instruction reads (R28, R37, R141, R270) -/

/-- The state with ST, the sticky flag, the previous result and the source of `rand_byte` replaced. -/
def State.withUnread (s : State) (b : Byte) (c : Bool) (r : StepResult) (q : List Byte) (d : Nat) : State :=
  { s with st := b, displayChanged := c, result := r, randSupply := q, draws := d }

/-- The two states differ in ST, the sticky flag and the source of `rand_byte` at most; the results are equal. -/
def SameButUnread (t t' : State) : Prop :=
  { t' with st := t.st, displayChanged := t.displayChanged, randSupply := t.randSupply, draws := t.draws } = t

/-- The second result is the outcome of the first, but for the fields no instruction reads. -/
def SameOutcome (r r' : Result) : Prop :=
  (∀ t, r = .next t → ∃ t', r' = .next t' ∧ SameButUnread t t') ∧ ∀ f, r = .fault f → r' = .fault f

section

variable {u u' : State}

theorem sameOutcome_next (h : SameButUnread u u') : SameOutcome (.next u) (.next u') := by
  refine ⟨fun t ht => ⟨u', rfl, ?_⟩, nofun⟩
  cases ht
  exact h

theorem sameOutcome_complete (h : SameButUnread (u.setResult ⟨false, .executed⟩) (u'.setResult ⟨false, .executed⟩)) :
    SameOutcome (complete u) (complete u') := sameOutcome_next h

theorem sameOutcome_completeDisplay
    (h : SameButUnread (u.setResult ⟨true, .executed⟩) (u'.setResult ⟨true, .executed⟩)) :
    SameOutcome (completeDisplay u) (completeDisplay u') := sameOutcome_next h

theorem sameOutcome_noProgress
    (h : SameButUnread (u.setResult ⟨false, .noProgress⟩) (u'.setResult ⟨false, .noProgress⟩)) :
    SameOutcome (noProgress u) (noProgress u') := sameOutcome_next h

theorem sameOutcome_raise {f : Fault} : SameOutcome (raise f) (raise f) :=
  ⟨fun _ h => absurd h raise_ne_next, fun _ h => h⟩

/-- Two runs that test the same condition take the same branch. -/
theorem sameOutcome_dite {p : Prop} [Decidable p] {a a' : p → Result} {b b' : ¬p → Result}
    (ha : ∀ h, SameOutcome (a h) (a' h)) (hb : ∀ h, SameOutcome (b h) (b' h)) :
    SameOutcome (dite p a b) (dite p a' b') := by
  by_cases h : p
  · rw [dif_pos h, dif_pos h]; exact ha h
  · rw [dif_neg h, dif_neg h]; exact hb h

theorem sameOutcome_checkRange {last : Nat} {body body' : Result} (h : SameOutcome body body') :
    SameOutcome (checkRange last body) (checkRange last body') := by
  unfold checkRange
  split
  · exact sameOutcome_raise
  · exact h

variable (s : State) (b : Byte) (c : Bool) (r : StepResult) (q : List Byte) (d : Nat)

theorem sameOutcome_execLdVxK (x : Reg) : SameOutcome (execLdVxK x s) (execLdVxK x (s.withUnread b c r q d)) := by
  have hkey : leastKey (s.withUnread b c r q d) = leastKey s := rfl
  cases hk : leastKey s with
  | none =>
    rw [execLdVxK_of_none x hk, execLdVxK_of_none x (hkey.trans hk)]
    exact sameOutcome_noProgress rfl
  | some k =>
    rw [execLdVxK_of_some x hk, execLdVxK_of_some x (hkey.trans hk)]
    exact sameOutcome_complete rfl

/-- Each arm tests and stores terms in which the replaced fields do not occur, so the two runs agree by computation. -/
theorem sameOutcome_exec (i : Instr) (hrnd : ∀ x nn, i = .rnd x nn → q = s.randSupply ∧ d = s.draws) :
    SameOutcome (exec i s) (exec i (s.withUnread b c r q d)) := by
  cases i with
  | cls => exact sameOutcome_completeDisplay rfl
  | drw => exact sameOutcome_checkRange (sameOutcome_completeDisplay rfl)
  | ret | call => exact sameOutcome_dite (fun _ => sameOutcome_complete rfl) (fun _ => sameOutcome_raise)
  | skp | sknp => exact sameOutcome_dite (fun _ => sameOutcome_complete rfl) (fun _ => sameOutcome_raise)
  | ldVxK x => exact sameOutcome_execLdVxK s b c r q d x
  | rnd x nn =>
    obtain ⟨rfl, rfl⟩ := hrnd x nn rfl
    exact sameOutcome_complete rfl
  | ldB | stRegs | ldRegs => exact sameOutcome_checkRange (sameOutcome_complete rfl)
  | _ => exact sameOutcome_complete rfl

end

/-- Settles O18, by running each instruction from both states side by side. -/
theorem unreadFieldsDoNotMatter : Obligations.UnreadFieldsDoNotMatter :=
  fun i s b c r q d hrnd => sameOutcome_exec s b c r q d i hrnd

end Sys2Proof.Machine

/-! Scope: memory (20_memory.md). Fetch is big-endian (R51), a data access past the last byte faults (R55), and what FX55
stores the next fetch reads (R61). -/

namespace Sys2Proof.Machine

/-! ## Fetch (R51) -/

theorem extractLsb'_high_readWord (m : Memory) (a : Nat) :
    (Memory.readWord m a).extractLsb' 8 8 = Memory.read m a := BitVec.extractLsb'_append_eq_left

theorem extractLsb'_low_readWord (m : Memory) (a : Nat) :
    (Memory.readWord m a).extractLsb' 0 8 = Memory.read m (a + 1) := BitVec.extractLsb'_append_eq_right

/-- Settles O9: the fetched word is `Memory.readWord` at pc. -/
theorem fetchIsBigEndian : Obligations.FetchIsBigEndian :=
  fun s => ⟨toNat_readWord s.mem s.pc.toNat, extractLsb'_high_readWord s.mem s.pc.toNat,
    extractLsb'_low_readWord s.mem s.pc.toNat⟩

/-! ## The range of a data access (R55) -/

/-- Settles O41: each of the four meanings is guarded by the check of its highest address; DXYN's counts only with N above 0. -/
theorem accessOutsideMemoryFaults : Obligations.AccessOutsideMemoryFaults :=
  fun _ _ _ _ => ⟨execDrw_of_range_bad, checkRange_of_gt, fun h => ⟨checkRange_of_gt h, checkRange_of_gt h⟩⟩

/-! ## A store into the instruction stream (R61) -/

/-- V0 to VX written from `base` up: V[r] is read back at `base + r` (R164). -/
theorem read_writeBytes_regsUpTo (m : Memory) (base : Nat) (s : State) {x r : Reg} (h : r.toNat ≤ x.toNat) :
    Memory.read (Memory.writeBytes m base (s.regsUpTo x)) (base + r.toNat) = s.reg r := by
  have hin : base ≤ base + r.toNat ∧ base + r.toNat < base + (s.regsUpTo x).length := by
    rw [State.length_regsUpTo]
    omega
  rw [Memory.read_writeBytes, if_pos hin, Nat.add_sub_cancel_left, State.getD_regsUpTo s x r h]

/-- FX55 leaves V[r] at I + r, for r up to X (R164). -/
theorem answers_stRegs_read (s : State) {x r : Reg} (h : r.toNat ≤ x.toNat) :
    Answers (fun t => Memory.read t.mem (s.i.toNat + r.toNat) = s.reg r) (exec (.stRegs x) s) :=
  answers_checkRange (answers_complete (read_writeBytes_regsUpTo s.mem s.i.toNat s h))

/-- Settles O43: the step leaves pc at the old I, and the fetch there reads what FX55 left for V0 and V1. -/
theorem nextFetchSeesTheStore : Obligations.NextFetchSeesTheStore := by
  intro s t x hdec hx hi h
  obtain ⟨-, ⟨i, u, hd, hu, rfl⟩ | ⟨raw, hd, -⟩⟩ := step_next h
  · cases hdec.symm.trans hd
    have hpc : u.pc = s.i := (answers_pcAfter _ s u hu).trans hi.symm
    have h0 : Memory.read u.mem s.i.toNat = s.reg v0 := answers_stRegs_read s (r := v0) (Nat.zero_le _) u hu
    have h1 : Memory.read u.mem (s.i.toNat + 1) = s.reg 0x1#4 := answers_stRegs_read s (r := 0x1#4) hx u hu
    calc u.nextDraw.fetched
        = wordOfBytes (Memory.read u.mem u.pc.toNat) (Memory.read u.mem (u.pc.toNat + 1)) := rfl
      _ = wordOfBytes (s.reg v0) (s.reg 0x1#4) := by rw [hpc, h0, h1]
  · cases hdec.symm.trans hd

end Sys2Proof.Machine

/-! Scope: encoding (30_encoding.md). The rows of the opcode map are disjoint (R74), decoding inverts encoding (R81), encoding
inverts decoding (R75), and `Unknown` stands for exactly the words of R77. -/

namespace Sys2Proof

/-! ## The rows of the opcode map are disjoint (R74) -/

/-- The fixed bits two rows share differ: some bit that both masks compare differs in their `match` words. -/
def Row.Disjoint (r q : Row) : Prop := r.code &&& q.mask ≠ q.code &&& r.mask

theorem Row.Disjoint.symm {r q : Row} (h : r.Disjoint q) : q.Disjoint r := Ne.symm h

theorem Row.selects_iff {r : Row} {w : Word} : r.selects w = true ↔ w &&& r.mask = r.code := beq_iff_eq

/-- A word that two rows select agrees with both on the bits that both compare. -/
theorem Row.Disjoint.not_selects_both {r q : Row} (h : r.Disjoint q) {w : Word} (hr : r.selects w = true)
    (hq : q.selects w = true) : False := by
  rw [Row.selects_iff] at hr hq
  apply h
  rw [← hr, ← hq, BitVec.and_assoc, BitVec.and_assoc, BitVec.and_comm r.mask]

theorem opcodeRows_pairwise_disjoint : opcodeRows.Pairwise Row.Disjoint := by
  unfold Row.Disjoint
  decide

theorem row_eq_of_selects {r q : Row} {w : Word} (hr : r ∈ opcodeRows) (hq : q ∈ opcodeRows)
    (hrw : r.selects w = true) (hqw : q.selects w = true) : r = q := by
  by_contra hne
  have : Std.Symm Row.Disjoint := ⟨fun _ _ => Row.Disjoint.symm⟩
  exact (opcodeRows_pairwise_disjoint.forall hr hq hne).not_selects_both hrw hqw

/-- A list of pairwise disjoint rows that all select one word has at most one row. -/
theorem length_le_one_of_all_select {rows : List Row} {w : Word} (hdisj : rows.Pairwise Row.Disjoint)
    (hall : ∀ r ∈ rows, r.selects w = true) : rows.length ≤ 1 := by
  match rows with
  | [] | [_] => simp
  | r :: q :: _ =>
    have hrq : r.Disjoint q := List.rel_of_pairwise_cons hdisj List.mem_cons_self
    exact (hrq.not_selects_both (hall r (by simp)) (hall q (by simp))).elim

/-! ## Decoding the word of an instruction (R74, R81) -/

/-- What `decode` can answer: the instruction of a row that selects the word, or `Unknown` when no row selects it. -/
theorem decode_cases (w : Word) :
    (∃ r ∈ opcodeRows, r.selects w = true ∧ decode w = .instr (r.build w)) ∨
      ((∀ r ∈ opcodeRows, ¬ r.selects w = true) ∧ decode w = .unknown w) := by
  rw [decode]
  split
  case h_1 r hfind =>
    exact .inl ⟨r, List.mem_of_find?_eq_some hfind, List.find?_some (p := (Row.selects · w)) hfind, rfl⟩
  case h_2 hfind => exact .inr ⟨List.find?_eq_none.mp hfind, rfl⟩

theorem decode_of_selects {r : Row} {w : Word} (hr : r ∈ opcodeRows) (hsel : r.selects w = true) :
    decode w = .instr (r.build w) := by
  obtain ⟨q, hq, hqsel, hd⟩ | ⟨hnone, -⟩ := decode_cases w
  · rw [hd, row_eq_of_selects hr hq hsel hqsel]
  · exact absurd hsel (hnone r hr)

theorem encodesInItsRow (i : Instr) : Laws.EncodesInItsRow.Statement i := by
  cases i with
  | cls => exact Laws.EncodesInItsRow.cls
  | ret => exact Laws.EncodesInItsRow.ret
  | jp nnn => exact Laws.EncodesInItsRow.jp nnn
  | call nnn => exact Laws.EncodesInItsRow.call nnn
  | seImm x nn => exact Laws.EncodesInItsRow.seImm x nn
  | sneImm x nn => exact Laws.EncodesInItsRow.sneImm x nn
  | seReg x y => exact Laws.EncodesInItsRow.seReg x y
  | ldImm x nn => exact Laws.EncodesInItsRow.ldImm x nn
  | addImm x nn => exact Laws.EncodesInItsRow.addImm x nn
  | ldReg x y => exact Laws.EncodesInItsRow.ldReg x y
  | or x y => exact Laws.EncodesInItsRow.or x y
  | and x y => exact Laws.EncodesInItsRow.and x y
  | xor x y => exact Laws.EncodesInItsRow.xor x y
  | addReg x y => exact Laws.EncodesInItsRow.addReg x y
  | sub x y => exact Laws.EncodesInItsRow.sub x y
  | shr x y => exact Laws.EncodesInItsRow.shr x y
  | subn x y => exact Laws.EncodesInItsRow.subn x y
  | shl x y => exact Laws.EncodesInItsRow.shl x y
  | sneReg x y => exact Laws.EncodesInItsRow.sneReg x y
  | ldI nnn => exact Laws.EncodesInItsRow.ldI nnn
  | jpV0 nnn => exact Laws.EncodesInItsRow.jpV0 nnn
  | rnd x nn => exact Laws.EncodesInItsRow.rnd x nn
  | drw x y n => exact Laws.EncodesInItsRow.drw x y n
  | skp x => exact Laws.EncodesInItsRow.skp x
  | sknp x => exact Laws.EncodesInItsRow.sknp x
  | ldVxDt x => exact Laws.EncodesInItsRow.ldVxDt x
  | ldVxK x => exact Laws.EncodesInItsRow.ldVxK x
  | ldDtVx x => exact Laws.EncodesInItsRow.ldDtVx x
  | ldStVx x => exact Laws.EncodesInItsRow.ldStVx x
  | addI x => exact Laws.EncodesInItsRow.addI x
  | ldF x => exact Laws.EncodesInItsRow.ldF x
  | ldB x => exact Laws.EncodesInItsRow.ldB x
  | stRegs x => exact Laws.EncodesInItsRow.stRegs x
  | ldRegs x => exact Laws.EncodesInItsRow.ldRegs x

theorem decode_encode (i : Instr) : decode (encode i) = .instr i := by
  obtain ⟨r, hr, hsel, hbuild⟩ := encodesInItsRow i
  rw [decode_of_selects hr hsel, hbuild]

/-! ## The word of a decoded instruction (R75)

A row's mask keeps every bit that its fields do not read, so a word the row selects is the word of what the row builds. -/

section

variable {r : Row} {w : Word}

theorem encode_build_rowsFixed (hr : r ∈ rowsFixed) (hw : w &&& r.mask = r.code) : encode (r.build w) = w := by
  simp only [rowsFixed, List.mem_cons, List.not_mem_nil, or_false] at hr
  obtain rfl | rfl := hr <;> exact hw.symm.trans (BitVec.and_allOnes (x := w))

theorem encode_build_rowsAddr (hr : r ∈ rowsAddr) (hw : w &&& r.mask = r.code) : encode (r.build w) = w := by
  simp only [rowsAddr, List.mem_cons, List.not_mem_nil, or_false] at hr
  obtain rfl | rfl | rfl | rfl := hr <;> exact wordAddr_fieldNNN hw

theorem encode_build_rowsRegImm (hr : r ∈ rowsRegImm) (hw : w &&& r.mask = r.code) : encode (r.build w) = w := by
  simp only [rowsRegImm, List.mem_cons, List.not_mem_nil, or_false] at hr
  obtain rfl | rfl | rfl | rfl | rfl := hr <;> exact wordRegByte_fields hw

theorem encode_build_rowsRegReg (hr : r ∈ rowsRegReg) (hw : w &&& r.mask = r.code) : encode (r.build w) = w := by
  simp only [rowsRegReg, List.mem_cons, List.not_mem_nil, or_false] at hr
  obtain rfl | rfl | rfl | rfl | rfl | rfl | rfl | rfl | rfl | rfl | rfl := hr <;> exact wordRegReg_fieldXY hw

theorem encode_build_rowsRegRegN (hr : r ∈ rowsRegRegN) (hw : w &&& r.mask = r.code) : encode (r.build w) = w := by
  obtain rfl := List.mem_singleton.mp hr
  exact wordRegReg_fields hw

theorem encode_build_rowsRegSub (hr : r ∈ rowsRegSub) (hw : w &&& r.mask = r.code) : encode (r.build w) = w := by
  simp only [rowsRegSub, List.mem_cons, List.not_mem_nil, or_false] at hr
  obtain rfl | rfl | rfl | rfl | rfl | rfl | rfl | rfl | rfl | rfl | rfl := hr <;> exact wordRegByte_fieldX hw

theorem encode_build (hr : r ∈ opcodeRows) (hsel : r.selects w = true) : encode (r.build w) = w := by
  have hw := Row.selects_iff.mp hsel
  simp only [opcodeRows, List.mem_append] at hr
  obtain ((((h | h) | h) | h) | h) | h := hr
  · exact encode_build_rowsFixed h hw
  · exact encode_build_rowsAddr h hw
  · exact encode_build_rowsRegImm h hw
  · exact encode_build_rowsRegReg h hw
  · exact encode_build_rowsRegRegN h hw
  · exact encode_build_rowsRegSub h hw

end

theorem encodeTagged_decode (w : Word) : encodeTagged (decode w) = w := by
  obtain ⟨r, hr, hsel, hd⟩ | ⟨-, hd⟩ := decode_cases w
  · rw [hd]; exact encode_build hr hsel
  · rw [hd]; rfl

/-! ## The words of R77 -/

theorem wordFamily_wordAddr (f : BitVec 4) (nnn : Addr) : wordFamily (wordAddr f nnn) = f :=
  BitVec.extractLsb'_append_eq_left

theorem wordFamily_wordRegByte (f : BitVec 4) (x : Reg) (nn : Byte) : wordFamily (wordRegByte f x nn) = f :=
  wordFamily_wordAddr f (x ++ nn)

theorem wordFamily_wordRegReg (f : BitVec 4) (x y : Reg) (n : Nib) : wordFamily (wordRegReg f x y n) = f :=
  wordFamily_wordRegByte f x (y ++ n)

theorem wordNN_wordRegByte (f : BitVec 4) (x : Reg) (nn : Byte) : wordNN (wordRegByte f x nn) = nn :=
  fieldNN_wordRegByte f x nn

theorem wordN_wordRegReg (f : BitVec 4) (x y : Reg) (n : Nib) : wordN (wordRegReg f x y n) = n :=
  fieldN_wordRegReg f x y n

theorem wordAddr_wordFamily (w : Word) : wordAddr (wordFamily w) (fieldNNN w) = w := by
  apply BitVec.eq_of_getLsbD_eq
  intro i hi
  rw [getLsbD_wordAddr]
  by_cases h : i < 12
  · simp [h, fieldNNN]
  · simp [h, wordFamily, show i - 12 < 4 by omega, show 12 + (i - 12) = i by omega]

section

variable {w : Word} {f : BitVec 4}

theorem mask_of_wordFamily (hf : wordFamily w = f) : w &&& 0xF000#16 = wordAddr f 0#12 := by
  rw [← hf, ← mask_wordAddr (wordFamily w) (fieldNNN w), wordAddr_wordFamily]

theorem wordAddr_of_wordFamily (hf : wordFamily w = f) : wordAddr f (fieldNNN w) = w :=
  wordAddr_fieldNNN (mask_of_wordFamily hf)

theorem wordRegByte_of_wordFamily (hf : wordFamily w = f) : wordRegByte f (fieldX w) (fieldNN w) = w :=
  wordRegByte_fields (mask_of_wordFamily hf)

theorem wordRegReg_of_wordFamily (hf : wordFamily w = f) : wordRegReg f (fieldX w) (fieldY w) (fieldN w) = w :=
  wordRegReg_fields (mask_of_wordFamily hf)

theorem wordRegByte_of_wordNN {nn : Byte} (hf : wordFamily w = f) (hnn : wordNN w = nn) :
    wordRegByte f (fieldX w) nn = w := hnn ▸ wordRegByte_of_wordFamily hf

theorem wordRegReg_of_wordN {n : Nib} (hf : wordFamily w = f) (hn : wordN w = n) :
    wordRegReg f (fieldX w) (fieldY w) n = w := hn ▸ wordRegReg_of_wordFamily hf

end

theorem isUnknownWord_encode (i : Instr) : isUnknownWord (encode i) = false := by
  cases i with
  | cls | ret => decide
  | jp | call | ldI | jpV0 => simp [encode, isUnknownWord, wordFamily_wordAddr]
  | seImm | sneImm | ldImm | addImm | rnd => simp [encode, isUnknownWord, wordFamily_wordRegByte]
  | drw => simp [encode, isUnknownWord, wordFamily_wordRegReg]
  | seReg | ldReg | or | and | xor | addReg | sub | shr | subn | shl | sneReg =>
    simp [encode, isUnknownWord, wordFamily_wordRegReg, wordN_wordRegReg, aluSubOps]
  | _ => simp [encode, isUnknownWord, wordFamily_wordRegByte, wordNN_wordRegByte, keySubOps, miscSubOps]

/-- The families whose words are all instructions are those R77 does not name. -/
theorem family_of_not_listed : ∀ f : BitVec 4, f ≠ 0x0 → f ≠ 0x5 → f ≠ 0x8 → f ≠ 0x9 → f ≠ 0xE → f ≠ 0xF →
    f ∈ [0x1#4, 0x2, 0x3, 0x4, 0x6, 0x7, 0xA, 0xB, 0xC, 0xD] := by
  decide

section

variable {w : Word}

theorem exists_encode_of_aluSubOps (hf : wordFamily w = 0x8) (h : wordN w ∈ aluSubOps) : ∃ i, encode i = w := by
  simp only [aluSubOps, List.mem_cons, List.not_mem_nil, or_false] at h
  obtain h | h | h | h | h | h | h | h | h := h
  · exact ⟨.ldReg _ _, wordRegReg_of_wordN hf h⟩
  · exact ⟨.or _ _, wordRegReg_of_wordN hf h⟩
  · exact ⟨.and _ _, wordRegReg_of_wordN hf h⟩
  · exact ⟨.xor _ _, wordRegReg_of_wordN hf h⟩
  · exact ⟨.addReg _ _, wordRegReg_of_wordN hf h⟩
  · exact ⟨.sub _ _, wordRegReg_of_wordN hf h⟩
  · exact ⟨.shr _ _, wordRegReg_of_wordN hf h⟩
  · exact ⟨.subn _ _, wordRegReg_of_wordN hf h⟩
  · exact ⟨.shl _ _, wordRegReg_of_wordN hf h⟩

theorem exists_encode_of_keySubOps (hf : wordFamily w = 0xE) (h : wordNN w ∈ keySubOps) : ∃ i, encode i = w := by
  simp only [keySubOps, List.mem_cons, List.not_mem_nil, or_false] at h
  obtain h | h := h
  · exact ⟨.skp _, wordRegByte_of_wordNN hf h⟩
  · exact ⟨.sknp _, wordRegByte_of_wordNN hf h⟩

theorem exists_encode_of_miscSubOps (hf : wordFamily w = 0xF) (h : wordNN w ∈ miscSubOps) : ∃ i, encode i = w := by
  simp only [miscSubOps, List.mem_cons, List.not_mem_nil, or_false] at h
  obtain h | h | h | h | h | h | h | h | h := h
  · exact ⟨.ldVxDt _, wordRegByte_of_wordNN hf h⟩
  · exact ⟨.ldVxK _, wordRegByte_of_wordNN hf h⟩
  · exact ⟨.ldDtVx _, wordRegByte_of_wordNN hf h⟩
  · exact ⟨.ldStVx _, wordRegByte_of_wordNN hf h⟩
  · exact ⟨.addI _, wordRegByte_of_wordNN hf h⟩
  · exact ⟨.ldF _, wordRegByte_of_wordNN hf h⟩
  · exact ⟨.ldB _, wordRegByte_of_wordNN hf h⟩
  · exact ⟨.stRegs _, wordRegByte_of_wordNN hf h⟩
  · exact ⟨.ldRegs _, wordRegByte_of_wordNN hf h⟩

theorem exists_encode_of_full_family
    (h : wordFamily w ∈ [0x1#4, 0x2, 0x3, 0x4, 0x6, 0x7, 0xA, 0xB, 0xC, 0xD]) : ∃ i, encode i = w := by
  simp only [List.mem_cons, List.not_mem_nil, or_false] at h
  obtain hf | hf | hf | hf | hf | hf | hf | hf | hf | hf := h
  · exact ⟨.jp _, wordAddr_of_wordFamily hf⟩
  · exact ⟨.call _, wordAddr_of_wordFamily hf⟩
  · exact ⟨.seImm _ _, wordRegByte_of_wordFamily hf⟩
  · exact ⟨.sneImm _ _, wordRegByte_of_wordFamily hf⟩
  · exact ⟨.ldImm _ _, wordRegByte_of_wordFamily hf⟩
  · exact ⟨.addImm _ _, wordRegByte_of_wordFamily hf⟩
  · exact ⟨.ldI _, wordAddr_of_wordFamily hf⟩
  · exact ⟨.jpV0 _, wordAddr_of_wordFamily hf⟩
  · exact ⟨.rnd _ _, wordRegByte_of_wordFamily hf⟩
  · exact ⟨.drw _ _ _, wordRegReg_of_wordFamily hf⟩

/-- A word that is not on R77's list is the word of an instruction: family by family, as the list is written. -/
theorem exists_encode_of_not_isUnknownWord (h : isUnknownWord w = false) : ∃ i, encode i = w := by
  rw [isUnknownWord] at h
  split at h
  case h_1 =>
    obtain rfl | rfl : w = 0x00E0#16 ∨ w = 0x00EE#16 := by simpa [or_iff_not_imp_left] using h
    · exact ⟨.cls, rfl⟩
    · exact ⟨.ret, rfl⟩
  case h_2 hf => exact ⟨.seReg _ _, wordRegReg_of_wordN hf (by simpa using h)⟩
  case h_3 hf => exact exists_encode_of_aluSubOps hf (by simpa using h)
  case h_4 hf => exact ⟨.sneReg _ _, wordRegReg_of_wordN hf (by simpa using h)⟩
  case h_5 hf => exact exists_encode_of_keySubOps hf (by simpa using h)
  case h_6 hf => exact exists_encode_of_miscSubOps hf (by simpa using h)
  case h_7 h0 h5 h8 h9 hE hF => exact exists_encode_of_full_family (family_of_not_listed _ h0 h5 h8 h9 hE hF)

theorem exists_decode_of_not_isUnknownWord (h : isUnknownWord w = false) : ∃ i, decode w = .instr i := by
  obtain ⟨i, rfl⟩ := exists_encode_of_not_isUnknownWord h
  exact ⟨i, decode_encode i⟩

theorem decode_of_isUnknownWord (h : isUnknownWord w = true) : decode w = .unknown w := by
  obtain ⟨r, hr, hsel, -⟩ | ⟨-, hd⟩ := decode_cases w
  · have hknown := isUnknownWord_encode (r.build w)
    rw [encode_build hr hsel] at hknown
    exact absurd h (Bool.eq_false_iff.mp hknown)
  · exact hd

end

theorem wf_decode (w : Word) : (decode w).wf = true := by
  cases h : isUnknownWord w with
  | true => rw [decode_of_isUnknownWord h]; exact h
  | false =>
    obtain ⟨i, hd⟩ := exists_decode_of_not_isUnknownWord h
    rw [hd]; rfl

/-! ## The obligations -/

/-- Settles O2: an instruction by `decode_encode`, an `Unknown` word by `decode_of_isUnknownWord`. -/
theorem decodeOfEncodeGivesItBack : Obligations.DecodeOfEncodeGivesItBack
  | .instr i, _ => decode_encode i
  | .unknown _, hwf => decode_of_isUnknownWord hwf

/-- Settles O3: the fields and the fixed bits of the selecting row make up the whole word. -/
theorem encodeOfDecodeIsTheWord : Obligations.EncodeOfDecodeIsTheWord :=
  fun w => ⟨encodeTagged_decode w, wf_decode w⟩

/-- Settles O4: a listed word is no instruction's, and every other word is the word of an instruction. -/
theorem unknownExactlyOnListedWords : Obligations.UnknownExactlyOnListedWords :=
  fun _ => ⟨decode_of_isUnknownWord, exists_decode_of_not_isUnknownWord⟩

/-- Settles O5: the rows that select a word are pairwise disjoint, and disjoint rows share no word. -/
theorem noWordSelectsTwoRows : Obligations.NoWordSelectsTwoRows :=
  ⟨rfl, fun _ => length_le_one_of_all_select (opcodeRows_pairwise_disjoint.filter _)
    fun _ hr => (List.mem_filter.mp hr).2⟩

/-- Settles O1: each instruction's word decodes to it by `decode_encode`; the last three words are on R77's list. -/
theorem specWordsDecode : Obligations.SpecWordsDecode :=
  ⟨decode_encode .cls, decode_encode .ret, decode_encode (.jp 0xABC), decode_encode (.call 0x345),
    decode_encode (.sneImm 0xA 0x05), decode_encode (.seReg 0x1 0x2), decode_encode (.addImm 0xA 0x01),
    decode_encode (.sneReg 0x1 0x2), decode_encode (.jpV0 0xFFE), decode_encode (.seImm 0xA 0x05),
    decode_encode (.ldImm 0xA 0x05), decode_encode (.addReg 0x1 0x2), decode_encode (.shl 0x1 0x2),
    decode_encode (.ldI 0x300), decode_encode (.rnd 0x3 0x0F), decode_encode (.drw 0x1 0x2 0x5),
    decode_encode (.skp 0x3), decode_encode (.ldVxK 0x2), decode_encode (.stRegs 0x2),
    decode_of_isUnknownWord rfl, decode_of_isUnknownWord rfl, decode_of_isUnknownWord rfl⟩

end Sys2Proof

/-! Scope: the step (40_step_cycle.md). Outside the fetch range a step faults (R91), inside it a step is `exec` of the decoded
instruction (R90), and an ALU instruction reads its operands first and writes the flag, then the result (R94, R95), which
settles the forms that name VF (42_load_alu.md R143). -/

namespace Sys2Proof.Machine

/-! ## Fetch, decode, execute (R90, R91) -/

/-- Settles O8: the fetch check fails. -/
theorem fetchOutsideMemoryFaults : Obligations.FetchOutsideMemoryFaults :=
  fun _ h => step_of_not_canFetch h

theorem step_of_decode_instr {s : State} {i : Instr} (hpc : s.pc.toNat ≤ 0xFFE) (hd : decode s.fetched = .instr i) :
    step s = endStep (exec i s) := by
  rw [step_of_canFetch hpc, hd, execTagged]

/-- Settles O6: the word at pc is `State.fetched`, and `endStep` adds the draw to a next state and nothing to a fault. -/
theorem stepRunsDecodedInstruction : Obligations.StepRunsDecodedInstruction := by
  intro s i hpc hd
  have hstep : step s = endStep (exec i s) := step_of_decode_instr hpc hd
  exact ⟨fun t h => by rw [hstep, h, endStep_next, State.nextDraw], fun f h => by rw [hstep, h, endStep_fault]⟩

/-! ## Flags and results as numbers (R21, R136 to R142) -/

theorem flagByte_decide (p : Prop) [Decidable p] : flagByte (decide p) = if p then 1 else 0 := by
  simp only [flagByte, decide_eq_true_eq]

theorem toNat_flagByte (f : Bool) : (flagByte f).toNat = f.toNat := by
  cases f <;> rfl

theorem toNat_flagByte_shiftedOutRight (b : Byte) : (flagByte (shiftedOutRight b)).toNat = b.toNat % 2 := by
  rw [toNat_flagByte, shiftedOutRight, BitVec.getLsbD, Nat.toNat_testBit, pow_zero, Nat.div_one]

theorem toNat_flagByte_shiftedOutLeft (b : Byte) : (flagByte (shiftedOutLeft b)).toNat = b.toNat / 128 := by
  rw [toNat_flagByte, shiftedOutLeft, BitVec.getLsbD, Nat.toNat_testBit]
  have := b.isLt
  omega

theorem toNat_sub_byte (a b : Byte) : (a - b).toNat = (a.toNat + 256 - b.toNat) % 256 := by
  rw [BitVec.toNat_sub]
  have := b.isLt
  omega

theorem toNat_ushiftRight_one (b : Byte) : (b >>> 1).toNat = b.toNat / 2 := by
  rw [BitVec.toNat_ushiftRight, Nat.shiftRight_one]

theorem toNat_shiftLeft_one (b : Byte) : (b <<< 1).toNat = b.toNat * 2 % 256 := by
  rw [BitVec.toNat_shiftLeft, Nat.shiftLeft_eq, pow_one]

/-! ## The flag first, the result last (R94, R95, R143) -/

/-- Every X: the result stands in VX, and the flag in VF unless X is F, where the result is written over it (R143). `g` is how
the flag is read: as a byte (`id`) or as a number (`BitVec.toNat`). -/
theorem exists_next_setFlagThenResult {α : Type} (g : Byte → α) {s : State} {f : Bool} {x : Reg} {b : Byte} {n : Nat}
    {c : α} (hresult : b.toNat = n) (hflag : g (flagByte f) = c) :
    ∃ t, complete (s.setFlagThenResult f x b).advance = .next t ∧ (t.reg x).toNat = n ∧
      (x ≠ vf → g (t.reg vf) = c) ∧ t.pc = s.pc + 2 ∧ Executed false t ∧ Frame [x, vf] [] s t := by
  refine ⟨_, rfl, ?_, fun hx => ?_, rfl, rfl, ?_⟩
  · rw [State.reg_setResult, State.reg_advance, State.reg_setFlagThenResult, if_pos rfl, hresult]
  · rw [State.reg_setResult, State.reg_advance, State.reg_setFlagThenResult, if_neg hx.symm, if_pos rfl, hflag]
  · have hvf : vf ∈ [x, vf] := List.mem_cons_of_mem x List.mem_cons_self
    exact ((Frame.refl _ _ s).setFlagThenResult hvf List.mem_cons_self).advance.setResult

/-- Settles O33: each of the five reads its operands from `s` and ends in the two writes of `exists_next_setFlagThenResult`,
which allows every X and Y. -/
theorem flagWritersNamingVf : Obligations.FlagWritersNamingVf :=
  fun _ _ _ _ => ⟨exists_next_setFlagThenResult id (BitVec.toNat_add _ _) (flagByte_decide _),
    exists_next_setFlagThenResult id (toNat_sub_byte _ _) (flagByte_decide _),
    exists_next_setFlagThenResult id (toNat_sub_byte _ _) (flagByte_decide _),
    exists_next_setFlagThenResult BitVec.toNat (toNat_ushiftRight_one _) (toNat_flagByte_shiftedOutRight _),
    exists_next_setFlagThenResult BitVec.toNat (toNat_shiftLeft_one _) (toNat_flagByte_shiftedOutLeft _)⟩

end Sys2Proof.Machine

/-! Scope: control transfer (41_control_flow.md). The jumps and the register skips write pc alone (R110, R113 to R117); a call
and a return also move sp, and only the call writes an entry (R111, R112). A return after a call composes the two. -/

namespace Sys2Proof.Machine

/-! ## Instructions that write pc alone (R110, R113 to R117) -/

section

variable {s : State}

/-- `g` is how pc is read: as a word (`id`) or as a number (`BitVec.toNat`). A skip is a write of pc too. -/
theorem exists_next_setPc {α : Type} (g : Word → α) {w : Word} {a : α} (hw : g w = a) :
    ∃ t, complete (s.setPc w) = .next t ∧ g t.pc = a ∧ Executed false t ∧ Frame [] [] s t :=
  ⟨_, rfl, hw, rfl, (Frame.refl _ _ s).setPc.setResult⟩

/-- The sum stays below 65536, so BNNN's target is the sum itself (R113, D7). -/
theorem toNat_zextAddr_add_zextByte (nnn : Addr) (b : Byte) :
    (zextAddr nnn + zextByte b).toNat = nnn.toNat + b.toNat := by
  have hnnn := nnn.isLt
  have hb := b.isLt
  rw [zextAddr_add_zextByte, BitVec.toNat_ofNat]
  omega

/-- pc after a skip on equality, the comparison on unsigned values as R114 has it. -/
theorem pc_skipIf_beq (a b : Byte) :
    (s.skipIf (a == b)).pc = if a.toNat = b.toNat then s.pc + 4 else s.pc + 2 :=
  pc_skipIf (beq_iff_eq.trans BitVec.toNat_inj.symm)

/-- pc after a skip on inequality (R115, R117). -/
theorem pc_skipIf_bne (a b : Byte) :
    (s.skipIf (a != b)).pc = if a.toNat = b.toNat then s.pc + 2 else s.pc + 4 :=
  (pc_skipIf (bne_iff_ne.trans BitVec.toNat_ne_iff_ne.symm)).trans (ite_not _ _ _)

end

/-- Settles O19: the target is the zero-extended NNN. -/
theorem jumpSetsPc : Obligations.JumpSetsPc :=
  fun _ nnn => exists_next_setPc BitVec.toNat (toNat_zextAddr nnn)

/-- Settles O20: the target is the sum of words, which does not wrap. -/
theorem jumpWithOffsetAddsV0 : Obligations.JumpWithOffsetAddsV0 :=
  fun s nnn => exists_next_setPc BitVec.toNat (toNat_zextAddr_add_zextByte nnn (s.reg v0))

/-- Settles O26: each of the four writes pc as the skip on its comparison does. -/
theorem registerSkipsTestAndSkip : Obligations.RegisterSkipsTestAndSkip :=
  fun s x y nn => ⟨exists_next_setPc id (pc_skipIf_beq (s.reg x) nn), exists_next_setPc id (pc_skipIf_bne (s.reg x) nn),
    exists_next_setPc id (pc_skipIf_beq (s.reg x) (s.reg y)), exists_next_setPc id (pc_skipIf_bne (s.reg x) (s.reg y))⟩

/-! ## Call and return (R26, R111, R112) -/

section

variable {s : State}

theorem exec_call_of_sp_lt (h : s.sp.val < 16) (nnn : Addr) :
    exec (.call nnn) s = complete ((s.push s.pc h).setPc (zextAddr nnn)) := dif_pos h

theorem exec_ret_of_sp_pos (h : 0 < s.sp.val) : exec .ret s = complete (s.pop.setPc (s.top h + 2)) := dif_pos h

/-- The pushed entry is the one at sp; every other entry keeps its value (R26). -/
theorem State.getElem_stack_push (w : Word) (h : s.sp.val < 16) (k : Fin 16) :
    (s.push w h).stack[k.val] = if k.val = s.sp.val then w else s.stack[k.val] := by
  rw [State.push_stack, Vector.getElem_set]
  exact if_congr eq_comm rfl rfl

theorem State.top_eq_getElem (h : 0 < s.sp.val) {k : Fin 16} (hk : k.val + 1 = s.sp.val) : s.top h = s.stack[k.val] :=
  getElem_congr_idx (show s.sp.val - 1 = k.val by omega)

end

/-- Settles O21: the push writes the entry at sp, and pc is set after it. -/
theorem callPushesItsOwnAddress : Obligations.CallPushesItsOwnAddress := by
  intro s nnn h
  have hframe : Frame [] [.sp, .entries] s (s.push s.pc h) :=
    (Frame.refl _ _ s).push List.mem_cons_self (by decide)
  exact ⟨_, exec_call_of_sp_lt h nnn, State.getElem_stack_push s.pc h, rfl, toNat_zextAddr nnn, rfl, hframe.setPc.setResult⟩

/-- Settles O22: at sp = 16 the test for room on the stack fails. -/
theorem callOnFullStackFaults : Obligations.CallOnFullStackFaults :=
  fun _ _ h => dif_neg (by rw [h]; decide)

/-- Settles O23: the pop moves sp alone, and pc is read from the top entry before it. -/
theorem returnPopsTheTopEntry : Obligations.ReturnPopsTheTopEntry :=
  fun s h => ⟨_, exec_ret_of_sp_pos h, fun _ hk => congrArg (· + 2) (State.top_eq_getElem h hk),
    Nat.sub_add_cancel h, rfl, ((Frame.refl _ _ s).pop List.mem_cons_self).setPc.setResult⟩

/-- Settles O24: at sp = 0 the test for an entry on the stack fails. -/
theorem returnOnEmptyStackFaults : Obligations.ReturnOnEmptyStackFaults :=
  fun _ h => dif_neg (by rw [h]; decide)

/-- Settles O25, from O21 and O23: the return's top entry, at the call's old sp, is the call's own address. -/
theorem returnResumesAfterTheCall : Obligations.ReturnResumesAfterTheCall := by
  intro s nnn h
  obtain ⟨t, hcall, hentries, hsp, -⟩ := callPushesItsOwnAddress s nnn h
  refine ⟨t, hcall, fun u husp hustack => ?_⟩
  have hutop : s.sp.val + 1 = u.sp.val := by rw [husp, hsp]
  obtain ⟨w, hret, hpc, hwsp, -⟩ := returnPopsTheTopEntry u (by omega)
  refine ⟨w, hret, ?_, Fin.ext (by omega)⟩
  rw [hpc ⟨s.sp.val, h⟩ hutop, hustack, hentries, if_pos rfl]

end Sys2Proof.Machine

/-! Scope: register load, arithmetic, logic, shift, random (42_load_alu.md). An instruction without a flag writes VX alone (R130 to
R135, R141); one with a flag writes VF first and VX last (R136 to R140), here where neither field names VF. -/

namespace Sys2Proof.Machine

/-! ## Instructions that write VX alone (R130 to R135, R141) -/

/-- `P` is what is claimed of the state after the write, and rests on the byte in VX alone. -/
theorem exists_next_setReg {P : State → Prop} {s : State} {x : Reg} {b : Byte} (hP : ∀ t : State, t.reg x = b → P t) :
    ∃ t, complete (s.setReg x b).advance = .next t ∧ P t ∧ t.pc = s.pc + 2 ∧ Executed false t ∧ Frame [x] [] s t := by
  refine ⟨_, rfl, hP _ ?_, rfl, rfl, ((Frame.refl _ _ s).setReg List.mem_cons_self).advance.setResult⟩
  rw [State.reg_setResult, State.reg_advance, State.reg_setReg, if_pos rfl]

/-- Settles O27: both write a byte to VX, NN or the old VY. -/
theorem loadsSetTheRegister : Obligations.LoadsSetTheRegister :=
  fun _ _ _ _ => ⟨exists_next_setReg fun _ h => h, exists_next_setReg fun _ h => h⟩

/-- Settles O28: VX alone is written, with a sum of bytes, which wraps as a number. -/
theorem addImmediateWrapsWithoutFlag : Obligations.AddImmediateWrapsWithoutFlag :=
  fun _ _ _ => exists_next_setReg fun _ h => by rw [h, BitVec.toNat_add]

/-- Settles O29: the three operations on bytes, read bit by bit. -/
theorem logicIsBitByBit : Obligations.LogicIsBitByBit :=
  fun _ _ _ => ⟨exists_next_setReg fun _ h _ => by rw [h, BitVec.getLsbD_or],
    exists_next_setReg fun _ h _ => by rw [h, BitVec.getLsbD_and],
    exists_next_setReg fun _ h _ => by rw [h, BitVec.getLsbD_xor, Bool.xor]⟩

theorem randByte_supplyRand (b : Byte) (s : State) : (supplyRand b s).randByte = b := rfl

/-- Settles O34: the masked byte goes to VX, and the byte is the one supplied last. -/
theorem randomIsMaskedByImmediate : Obligations.RandomIsMaskedByImmediate :=
  fun s _ _ => ⟨exists_next_setReg fun _ h => h, fun b => randByte_supplyRand b s⟩

/-! ## Instructions that write VF and VX (R136 to R140) -/

/-- `exists_next_setFlagThenResult` where X is not F: the flag stands. -/
theorem exists_next_setFlagThenResult_of_ne {α : Type} (g : Byte → α) {s : State} {f : Bool} {x : Reg} {b : Byte} {n : Nat}
    {c : α} (hx : x ≠ vf) (hresult : b.toNat = n) (hflag : g (flagByte f) = c) :
    ∃ t, complete (s.setFlagThenResult f x b).advance = .next t ∧ (t.reg x).toNat = n ∧
      g (t.reg vf) = c ∧ t.pc = s.pc + 2 ∧ Executed false t ∧ Frame [x, vf] [] s t := by
  obtain ⟨t, hnext, hreg, hvf, hrest⟩ := exists_next_setFlagThenResult g hresult hflag
  exact ⟨t, hnext, hreg, hvf hx, hrest⟩

/-- Settles O30: the sum of two bytes as a number, and the carry as a byte. -/
theorem addSetsCarry : Obligations.AddSetsCarry :=
  fun _ _ _ hx _ => exists_next_setFlagThenResult_of_ne id hx (BitVec.toNat_add _ _) (flagByte_decide _)

/-- Settles O31: 8XY7 is 8XY5 with its operands exchanged. -/
theorem subtractsSetNoBorrow : Obligations.SubtractsSetNoBorrow :=
  fun _ _ _ hx _ => ⟨exists_next_setFlagThenResult_of_ne id hx (toNat_sub_byte _ _) (flagByte_decide _),
    exists_next_setFlagThenResult_of_ne id hx (toNat_sub_byte _ _) (flagByte_decide _)⟩

section

variable {s : State} {x : Reg}

/-- Both values of SHIFT_SOURCE (R138). -/
theorem exists_next_shiftRightFrom (src : ShiftSource) (y : Reg) (hx : x ≠ vf) :
    ∃ t, shiftRightFrom src x y s = .next t ∧ (t.reg x).toNat = (s.shiftOperand src x y).toNat / 2 ∧
      (t.reg vf).toNat = (s.shiftOperand src x y).toNat % 2 ∧ t.pc = s.pc + 2 ∧ Executed false t ∧
      Frame [x, vf] [] s t :=
  exists_next_setFlagThenResult_of_ne BitVec.toNat hx (toNat_ushiftRight_one _) (toNat_flagByte_shiftedOutRight _)

/-- Both values of SHIFT_SOURCE (R140). -/
theorem exists_next_shiftLeftFrom (src : ShiftSource) (y : Reg) (hx : x ≠ vf) :
    ∃ t, shiftLeftFrom src x y s = .next t ∧ (t.reg x).toNat = (s.shiftOperand src x y).toNat * 2 % 256 ∧
      (t.reg vf).toNat = (s.shiftOperand src x y).toNat / 128 ∧ t.pc = s.pc + 2 ∧ Executed false t ∧
      Frame [x, vf] [] s t :=
  exists_next_setFlagThenResult_of_ne BitVec.toNat hx (toNat_shiftLeft_one _) (toNat_flagByte_shiftedOutLeft _)

end

/-- Settles O32: this hardware's operand is VX, the other value's is VY. -/
theorem shiftsMoveOneBitIntoVf : Obligations.ShiftsMoveOneBitIntoVf :=
  fun _ _ y hx _ => ⟨exists_next_shiftRightFrom .vx y hx, exists_next_shiftLeftFrom .vx y hx,
    exists_next_shiftRightFrom .vy y hx, exists_next_shiftLeftFrom .vy y hx⟩

end Sys2Proof.Machine

/-! Scope: the index register and memory transfer (43_index_memory.md). ANNN, FX1E and FX29 set I (R160 to R162); FX33 and FX55
write a row of bytes from I up (R163, R164), and FX65 reads one back (R165). The last three complete when their highest address
lies in memory (R55). What each may write at all is `answers_frame`. -/

namespace Sys2Proof.Machine

/-! ## Instructions that set I (R160 to R162) -/

theorem State.reg_vf_setFlag (s : State) (f : Bool) : (s.setFlag f).reg vf = flagByte f := by
  rw [State.reg_setFlag, if_pos rfl]

/-- Settles O35: I becomes the zero-extended NNN. -/
theorem loadIndexSetsI : Obligations.LoadIndexSetsI :=
  fun s nnn => ⟨_, rfl, toNat_zextAddr nnn, rfl, rfl, answers_frame (.ldI nnn) s _ rfl⟩

/-- Settles O36: sum and flag are both taken from the old I and the old VX, so X = F is no special case. -/
theorem addToIndexSetsOverflow : Obligations.AddToIndexSetsOverflow :=
  fun s x => ⟨_, rfl, toNat_indexSum s.i (s.reg x), (State.reg_vf_setFlag s _).trans (flagByte_decide _), rfl, rfl,
    answers_frame (.addI x) s _ rfl⟩

/-- Settles O37: five times a byte fits in 16 bits. -/
theorem glyphAddressIsFiveTimesVx : Obligations.GlyphAddressIsFiveTimesVx :=
  fun s x => ⟨_, rfl, toNat_glyphAddress (s.reg x), rfl, rfl, answers_frame (.ldF x) s _ rfl⟩

/-! ## FX33 (R163) -/

theorem Memory.read_writeBytes_add (m : Memory) (a : Nat) (bs : List Byte) {k : Nat} (h : k < bs.length) :
    Memory.read (Memory.writeBytes m a bs) (a + k) = bs.getD k 0 := by
  rw [Memory.read_writeBytes, if_pos ⟨Nat.le_add_right a k, Nat.add_lt_add_left h a⟩, Nat.add_sub_cancel_left]

/-- The three digits as numbers: none is above the byte they are taken from, so each fits in a byte. -/
theorem toNat_getD_decimalDigits (b : Byte) :
    ((decimalDigits b).getD 0 0).toNat = b.toNat / 100 ∧ ((decimalDigits b).getD 1 0).toNat = b.toNat / 10 % 10 ∧
      ((decimalDigits b).getD 2 0).toNat = b.toNat % 10 := by
  have hfits : ∀ n ≤ b.toNat, (BitVec.ofNat 8 n).toNat = n := fun n hn =>
    (BitVec.toNat_ofNat n 8).trans (Nat.mod_eq_of_lt (Nat.lt_of_le_of_lt hn b.isLt))
  exact ⟨hfits _ (Nat.div_le_self _ _), hfits _ ((Nat.mod_le _ _).trans (Nat.div_le_self _ _)), hfits _ (Nat.mod_le _ _)⟩

theorem exec_ldB_of_le {s : State} (x : Reg) (h : s.i.toNat + 2 ≤ 0xFFF) :
    exec (.ldB x) s = complete (s.setMem (Memory.writeBytes s.mem s.i.toNat (decimalDigits (s.reg x)))).advance :=
  checkRange_of_le h

/-- Settles O38: the bytes written from I up are the digits, and there are three of them. -/
theorem decimalDigitsAreStored : Obligations.DecimalDigitsAreStored := by
  intro s x h
  have hnext := exec_ldB_of_le x h
  have hread (k : Nat) (hk : k < 3) :=
    congrArg BitVec.toNat (Memory.read_writeBytes_add s.mem s.i.toNat (decimalDigits (s.reg x)) hk)
  obtain ⟨hhundreds, htens, hunits⟩ := toNat_getD_decimalDigits (s.reg x)
  exact ⟨_, hnext, (hread 0 (by decide)).trans hhundreds, (hread 1 (by decide)).trans htens,
    (hread 2 (by decide)).trans hunits,
    fun a ha => Memory.read_writeBytes_outside _ _ _ (by rw [length_decimalDigits]; omega),
    rfl, rfl, answers_frame (.ldB x) s _ hnext⟩

/-! ## FX55 and FX65 (R164, R165) -/

section

variable {s : State} {x : Reg}

theorem exec_stRegs_of_le (h : s.i.toNat + x.toNat ≤ 0xFFF) :
    exec (.stRegs x) s =
      complete ((s.setMem (Memory.writeBytes s.mem s.i.toNat (s.regsUpTo x))).setI (s.indexPast x)).advance :=
  checkRange_of_le h

theorem exec_ldRegs_of_le (h : s.i.toNat + x.toNat ≤ 0xFFF) :
    exec (.ldRegs x) s =
      complete ((s.setRegs (loadRegs s.mem s.i.toNat (x.toNat + 1) s.v)).setI (s.indexPast x)).advance :=
  checkRange_of_le h

end

/-- Settles O39: the bytes written from I up are V0 to VX, and there are X + 1 of them. -/
theorem registersAreStored : Obligations.RegistersAreStored := by
  intro s x h
  have hnext := exec_stRegs_of_le h
  exact ⟨_, hnext, fun r hr => answers_stRegs_read s hr _ hnext,
    fun a ha => Memory.read_writeBytes_outside _ _ _ (by rw [State.length_regsUpTo]; omega),
    State.toNat_indexPast s x h, rfl, rfl, answers_frame (.stRegs x) s _ hnext⟩

/-- Settles O40: the loop of X + 1 loads gives V[r] the byte at I + r, for r up to X. -/
theorem registersAreLoaded : Obligations.RegistersAreLoaded := by
  intro s x h
  have hnext := exec_ldRegs_of_le h
  exact ⟨_, hnext, fun r => (getElem_loadRegs _ _ _ _ _ r.isLt).trans (if_congr Nat.lt_succ_iff rfl rfl),
    State.toNat_indexPast s x h, rfl, rfl, answers_frame (.ldRegs x) s _ hnext⟩

/-- Settles O42, from O39 and O40: with I set back, the load's byte for V[r] is the one the store wrote for V[r]. -/
theorem storeThenLoadGivesRegistersBack : Obligations.StoreThenLoadGivesRegistersBack := by
  intro s x h
  obtain ⟨t, hstore, hstored, -, hti, -⟩ := registersAreStored s x h
  refine ⟨t, hstore, hti, fun u humem hui => ?_⟩
  obtain ⟨w, hload, hloaded, hwi, -⟩ := registersAreLoaded u x (by rwa [hui])
  refine ⟨w, hload, fun r hr => ?_, by rw [hwi, hui]⟩
  calc w.reg r
      = Memory.read u.mem (u.i.toNat + r.toNat) := by rw [hloaded, if_pos hr]
    _ = Memory.read t.mem (s.i.toNat + r.toNat) := by rw [humem, hui]
    _ = s.reg r := hstored r hr

end Sys2Proof.Machine

/-! Scope: the display (44_display.md). What a whole sprite does to the cells is `drawRows_spec`, and what each mutator may write
at all is `answers_frame`. A second draw is the first one's statement at the state that the first one left. -/

namespace Sys2Proof.Machine

/-! ## Cells (R31, R33) -/

/-- The cells are the whole display: number k is the cell in column k % 64 and row k / 64 (R33). -/
theorem Display.eq_of_cell_eq {d e : Display} (h : ∀ x < 64, ∀ y < 32, Display.cell d x y = Display.cell e x y) :
    d = e := by
  refine BitVec.eq_of_getLsbD_eq fun k hk => ?_
  have hcell := h (k % 64) (Nat.mod_lt k (by decide)) (k / 64) (Nat.div_lt_of_lt_mul hk)
  rwa [Display.cell, Display.cell, show cellNumber (k % 64) (k / 64) = k from Nat.mod_add_div k 64] at hcell

/-- Settles O44: no cell of the number 0 is set. -/
theorem clearZeroesEveryCell : Obligations.ClearZeroesEveryCell :=
  fun s => ⟨_, rfl, fun x _ y _ => Display.cell_zero x y, rfl, rfl, rfl, answers_frame .cls s _ rfl⟩

/-! ## DXYN (R181 to R183) -/

theorem flagByte_eq_one_or_eq_zero (f : Bool) : flagByte f = 1 ∨ flagByte f = 0 := by
  cases f
  · exact .inr rfl
  · exact .inl rfl

theorem flagByte_eq_one_iff (f : Bool) : flagByte f = 1 ↔ f = true := by
  cases f <;> decide

/-- Settles O45: `drawRows_spec` from a drawing with no collision yet, whose collision is then VF. -/
theorem drawInvertsTheSelectedCells : Obligations.DrawInvertsTheSelectedCells := by
  intro s x y n h
  have hnext : exec (.drw x y n) s = _ := execDrw_of_range h
  have hrows : n.toNat ≤ 32 := n.isLt.le.trans (by decide)
  obtain ⟨hcell, hcollision⟩ :=
    drawRows_spec s.mem s.i.toNat (s.reg x).toNat (s.reg y).toNat n.toNat hrows ⟨s.disp, false⟩
  have hvf := State.reg_vf_setFlag s (s.drawing x y n).collision
  refine ⟨_, hnext, fun cx hcx cy _ => ⟨fun hsel => ?_, fun hsel => ?_⟩, ?_, ?_, rfl, rfl, rfl,
    answers_frame (.drw x y n) s _ hnext⟩
  · exact (hcell cx cy hcx).trans (by simp only [hsel, decide_true, Bool.xor_true])
  · exact (hcell cx cy hcx).trans (by simp only [hsel, decide_false, Bool.xor_false])
  · exact hvf ▸ flagByte_eq_one_or_eq_zero _
  · exact hvf ▸ (flagByte_eq_one_iff _).trans (hcollision.trans (or_iff_right Bool.false_ne_true))

/-- Coordinates wrap, so a selected cell lies on the display (R182). -/
theorem Selects.lt {m : Memory} {base x0 y0 n x y : Nat} (h : Selects m base x0 y0 n x y) : x < 64 ∧ y < 32 := by
  obtain ⟨r, -, c, -, -, rfl, rfl⟩ := h
  exact ⟨Nat.mod_lt _ (by decide), Nat.mod_lt _ (by decide)⟩

/-- The sprite depends on the bytes of memory alone. -/
theorem selects_congr {m m' : Memory} (h : ∀ a, Memory.read m' a = Memory.read m a) (base x0 y0 n x y : Nat) :
    Selects m' base x0 y0 n x y ↔ Selects m base x0 y0 n x y := by
  simp only [Selects, h]

/-- Settles O46, from O45 twice: both draws select the same cells, and the second finds each of them inverted by the first. -/
theorem drawingTwiceRestoresTheDisplay : Obligations.DrawingTwiceRestoresTheDisplay := by
  intro s x y n h
  obtain ⟨t, hfirst, hcell, -⟩ := drawInvertsTheSelectedCells s x y n h
  refine ⟨t, hfirst, fun u hudisp hui hux huy humem => ?_⟩
  obtain ⟨w, hsecond, hcell', hflag, hvf, -⟩ := drawInvertsTheSelectedCells u x y n (by rwa [hui])
  simp only [hudisp, hui, hux, huy, selects_congr humem] at hcell' hvf
  refine ⟨w, hsecond, Display.eq_of_cell_eq fun cx hcx cy hcy => ?_, hflag, hvf.trans ?_⟩
  · obtain ⟨hinverted, hkept⟩ := hcell cx hcx cy hcy
    obtain ⟨hinverted', hkept'⟩ := hcell' cx hcx cy hcy
    by_cases hsel : Selects s.mem s.i.toNat (s.reg x).toNat (s.reg y).toNat n.toNat cx cy
    · rw [hinverted' hsel, hinverted hsel, Bool.not_not]
    · rw [hkept' hsel, hkept hsel]
  · refine exists₂_congr fun cx cy => and_congr_right fun hsel => ?_
    obtain ⟨hcx, hcy⟩ := hsel.lt
    obtain ⟨hinverted, -⟩ := hcell cx hcx cy hcy
    rw [hinverted hsel, Bool.not_eq_true']

end Sys2Proof.Machine

/-! Scope: the keypad (45_keypad.md). EX9E and EXA1 are skips on the key whose index is VX (R190, R191), and FX0A writes the index of
the least pressed key to VX (R192). The flags are levels, and no instruction writes them (R29). -/

namespace Sys2Proof.Machine

/-! ## EX9E and EXA1 (R190, R191) -/

section

variable {s : State} {x : Reg}

theorem exec_skp_of_lt (h : (s.reg x).toNat < 16) :
    exec (.skp x) s = complete (s.skipIf s.key[(s.reg x).toNat]) :=
  (exec_skp s x).trans (withKey_of_lt h)

theorem exec_sknp_of_lt (h : (s.reg x).toNat < 16) :
    exec (.sknp x) s = complete (s.skipIf !s.key[(s.reg x).toNat]) :=
  (exec_sknp s x).trans (withKey_of_lt h)

/-- pc after a skip on a negated flag. -/
theorem pc_skipIf_not (c : Bool) : (s.skipIf !c).pc = if c = true then s.pc + 2 else s.pc + 4 :=
  (pc_skipIf Bool.not_iff_not).trans (ite_not _ _ _)

end

/-- Settles O47: both read the flag of key VX and write pc as the skip on it, or on its negation, does. -/
theorem keySkipsTestTheKeyOfVx : Obligations.KeySkipsTestTheKeyOfVx := by
  intro s x h
  rw [exec_skp_of_lt h, exec_sknp_of_lt h]
  exact ⟨exists_next_setPc id (pc_skipIf Iff.rfl), exists_next_setPc id (pc_skipIf_not s.key[(s.reg x).toNat])⟩

/-- Settles O48: no key has such an index, so the key test faults in both before it reads a flag. -/
theorem keyIndexAboveFifteenFaults : Obligations.KeyIndexAboveFifteenFaults :=
  fun s x h => ⟨(exec_skp s x).trans (withKey_of_ge h), (exec_sknp s x).trans (withKey_of_ge h)⟩

/-! ## FX0A (R192) -/

/-- The least pressed key is the only pressed key with no pressed key below it; the converse is `leastKey_eq_some`. -/
theorem leastKey_eq_some_of_least {s : State} {k : Fin 16} (hk : s.key[k.val] = true)
    (hbelow : ∀ j : Fin 16, j < k → s.key[j.val] = false) : leastKey s = some k := by
  cases hleast : leastKey s with
  | none => exact absurd ⟨k, hk⟩ (not_exists_key_of_leastKey hleast)
  | some j =>
    obtain ⟨hj, hbelow'⟩ := leastKey_eq_some hleast
    have hkj : k ≤ j := not_lt.mp fun hlt => Bool.eq_false_iff.mp (hbelow j hlt) hj
    have hjk : j ≤ k := not_lt.mp fun hlt => Bool.eq_false_iff.mp (hbelow' k hlt) hk
    rw [le_antisymm hjk hkj]

/-- A key's index fits in a byte. -/
theorem toNat_ofNat_key (k : Fin 16) : (BitVec.ofNat 8 k.val).toNat = k.val :=
  (BitVec.toNat_ofNat _ _).trans (Nat.mod_eq_of_lt (k.isLt.trans (by decide)))

/-- Settles O49: the least pressed key is the one found, and its index is the byte written to VX. -/
theorem waitTakesTheLeastPressedKey : Obligations.WaitTakesTheLeastPressedKey := by
  intro s x k hk hbelow
  rw [exec_ldVxK, execLdVxK_of_some x (leastKey_eq_some_of_least hk hbelow)]
  exact exists_next_setReg fun _ hreg => by rw [hreg, toNat_ofNat_key]

/-- Settles O50: no key is found, and only the result is written. -/
theorem waitWithoutKeyMakesNoProgress : Obligations.WaitWithoutKeyMakesNoProgress :=
  fun _ x h => execLdVxK_of_none x (leastKey_eq_none.mpr h)

end Sys2Proof.Machine

/-! Scope: timer access (46_timer_access.md). FX07 writes VX alone (R200), and FX15 and FX18 write one timer alone (R201, R202). Only
`tick` reports a beep (R232). -/

namespace Sys2Proof.Machine

/-- Settles O51: FX07 is one more write of VX alone, and FX15 writes DT as `answers_frame` allows it. -/
theorem delayTimerIsReadAndWritten : Obligations.DelayTimerIsReadAndWritten :=
  fun s x => ⟨exists_next_setReg fun _ hreg => hreg,
    ⟨_, rfl, State.setDt_dt s (s.reg x), rfl, rfl, answers_frame (.ldDtVx x) s _ rfl⟩⟩

/-- A sound timer at 0 stays there, and its tick reports no beep (R231, R232). -/
theorem tick_of_st_eq_zero {s : State} (h : s.st = 0) : (tick s).2 = false ∧ (tick s).1.st = 0 := by
  have hbeep : tickBeep s = false := by rw [tickBeep, h]; rfl
  have hst : decrement s.st = 0 := if_pos h
  exact ⟨hbeep, (tickState_st s).trans hst⟩

/-- Settles O52: ST becomes the byte in VX, so 0 there leaves the next tick a timer at 0, whatever ST was. -/
theorem soundTimerIsWrittenSilently : Obligations.SoundTimerIsWrittenSilently := by
  intro s x
  have hst : (s.setSt (s.reg x)).advance.st = s.reg x := State.setSt_st s (s.reg x)
  exact ⟨_, rfl, hst, rfl, rfl, answers_frame (.ldStVx x) s _ rfl,
    fun hzero => tick_of_st_eq_zero (hst.trans hzero)⟩

end Sys2Proof.Machine

/-! Scope: `Unknown` words (47_unknown.md R210), faults, the timers' tick, the keys and the acknowledgement (60_exceptions.md), and
`load_rom` and finished programs (70_reset_and_hazards.md R263, R272). When a step faults is said once, by `answersOrFaults_step`;
an operation that leaves what `nextFault` reads leaves the fault too. -/

namespace Sys2Proof.Machine

/-! ## Unknown words (R210) -/

/-- Settles O7: `Unknown` is run as `execUnknown`, and the end of the step adds the draw. -/
theorem unknownWordIsReportedAndSkipped : Obligations.UnknownWordIsReportedAndSkipped := by
  intro s raw hpc hd
  have hfetched : decode s.fetched = .unknown raw := hd
  rw [step_of_canFetch hpc, hfetched]
  rfl

/-! ## When a step faults (R221) -/

/-- The result is the fault that is due, and a next state where none is due. -/
def AnswersOrFaults (due : Option Fault) (r : Result) : Prop :=
  match due with
  | none => ∃ t, r = .next t
  | some f => r = .fault f

section

variable {due : Option Fault} {r : Result}

theorem AnswersOrFaults.eq_fault_iff (h : AnswersOrFaults due r) (f : Fault) : r = .fault f ↔ due = some f := by
  cases due with
  | none => obtain ⟨t, rfl⟩ := h; simp
  | some g => obtain rfl := h; simp

theorem AnswersOrFaults.exists_next_iff (h : AnswersOrFaults due r) : (∃ t, r = .next t) ↔ due = none := by
  cases due with
  | none => exact iff_of_true h rfl
  | some g => obtain rfl := h; simp

theorem AnswersOrFaults.ne_refused (h : AnswersOrFaults due r) (q : Refusal) : r ≠ .refused q := by
  cases due with
  | none => obtain ⟨t, rfl⟩ := h; nofun
  | some g => obtain rfl := h; nofun

theorem AnswersOrFaults.endStep (h : AnswersOrFaults due r) : AnswersOrFaults due (endStep r) := by
  cases due with
  | none => obtain ⟨t, rfl⟩ := h; exact ⟨_, endStep_next⟩
  | some g => obtain rfl := h; exact endStep_fault

end

section

variable {s u : State}

theorem answersOrFaults_complete : AnswersOrFaults none (complete u) := ⟨_, rfl⟩

theorem answersOrFaults_completeDisplay : AnswersOrFaults none (completeDisplay u) := ⟨_, rfl⟩

theorem answersOrFaults_noProgress : AnswersOrFaults none (noProgress u) := ⟨_, rfl⟩

theorem answersOrFaults_checkRange {last : Nat} {body : Result} (hbody : AnswersOrFaults none body) :
    AnswersOrFaults (rangeFault last) (checkRange last body) := by
  rw [rangeFault]
  split
  case isTrue h => exact checkRange_of_gt h
  case isFalse h => rwa [checkRange_of_le (Nat.le_of_not_lt h)]

/-- The shape of EX9E and EXA1, which skip on the key's flag or on its negation (R190, R191). -/
theorem answersOrFaults_keySkip (b : Byte) (c : Bool → Bool) :
    AnswersOrFaults (if b.toNat > 15 then some (.keyIndexOutOfRange (zextByte b)) else none)
      (withKey s b fun pressed => complete (s.skipIf (c pressed))) := by
  split
  case isTrue h => exact withKey_of_ge h
  case isFalse h => exact ⟨_, withKey_of_lt (Nat.lt_succ_of_le (Nat.le_of_not_lt h))⟩

/-- sp is at most 16, so a stack that is not at 16 has room (R26). -/
theorem answersOrFaults_execCall (nnn : Addr) :
    AnswersOrFaults (if s.sp = 16 then some (.stackOverflow s.pc) else none) (execCall nnn s) := by
  split
  case isTrue h => exact callOnFullStackFaults s nnn h
  case isFalse h =>
    have hroom : s.sp.val < 16 := by omega
    exact ⟨_, exec_call_of_sp_lt hroom nnn⟩

theorem answersOrFaults_execRet :
    AnswersOrFaults (if s.sp = 0 then some (.stackUnderflow s.pc) else none) (execRet s) := by
  split
  case isTrue h => exact returnOnEmptyStackFaults s h
  case isFalse h => exact ⟨_, exec_ret_of_sp_pos (Fin.pos_iff_ne_zero.mpr h)⟩

/-- With N = 0 nothing is read and the check is of address 0, which passes (R181). -/
theorem answersOrFaults_execDrw (x y : Reg) (n : Nib) :
    AnswersOrFaults (if 0 < n.toNat then rangeFault (s.i.toNat + n.toNat - 1) else none) (execDrw x y n s) := by
  split
  case isTrue h =>
    have hn : n ≠ 0 := by rintro rfl; exact absurd h (by decide)
    rw [execDrw, if_neg hn]
    exact answersOrFaults_checkRange answersOrFaults_completeDisplay
  case isFalse h => rw [execDrw_of_range (.inl (Nat.eq_zero_of_not_pos h))]; exact answersOrFaults_completeDisplay

theorem answersOrFaults_execLdVxK (x : Reg) : AnswersOrFaults none (execLdVxK x s) := by
  cases hk : leastKey s with
  | none => rw [execLdVxK_of_none x hk]; exact answersOrFaults_noProgress
  | some k => rw [execLdVxK_of_some x hk]; exact answersOrFaults_complete

theorem answersOrFaults_exec (i : Instr) (s : State) : AnswersOrFaults (instrFault i s) (exec i s) := by
  cases i with
  | cls => exact answersOrFaults_completeDisplay
  | drw x y n => exact answersOrFaults_execDrw x y n
  | ret => exact answersOrFaults_execRet
  | call nnn => exact answersOrFaults_execCall nnn
  | skp x => exact answersOrFaults_keySkip (s.reg x) id
  | sknp x => exact answersOrFaults_keySkip (s.reg x) not
  | ldVxK x => exact answersOrFaults_execLdVxK x
  | ldB | stRegs | ldRegs => exact answersOrFaults_checkRange answersOrFaults_complete
  | _ => exact answersOrFaults_complete

/-- The fetch check comes first, then the instruction's own condition; `Unknown` has none (R221, R224). -/
theorem answersOrFaults_step (s : State) : AnswersOrFaults (nextFault s) (step s) := by
  rw [nextFault]
  split
  case isTrue hpc => exact step_of_not_canFetch hpc
  case isFalse hpc =>
    rw [step_of_canFetch (Nat.le_of_not_lt hpc)]
    cases decode s.fetched with
    | instr i => exact (answersOrFaults_exec i s).endStep
    | unknown raw => exact ⟨_, rfl⟩

theorem step_eq_fault_iff {f : Fault} : step s = .fault f ↔ nextFault s = some f :=
  (answersOrFaults_step s).eq_fault_iff f

end

/-- Settles O10: the step is the fault that is due or, with none due, a next state; these exclude each other and a refusal. -/
theorem stepFaultsExactlyAsListed : Obligations.StepFaultsExactlyAsListed :=
  fun s => ⟨fun _ => step_eq_fault_iff, (answersOrFaults_step s).exists_next_iff, (answersOrFaults_step s).ne_refused⟩

/-! ## A fault repeats (R222)

No condition of R221 reads a timer, a key flag, the sticky flag or the source of `rand_byte`. -/

section

variable (s : State)

theorem nextFault_tickState : nextFault (tickState s) = nextFault s := rfl

theorem nextFault_setKey (k : Fin 16) (p : Bool) : nextFault (setKey s k p) = nextFault s := rfl

theorem nextFault_renderAck : nextFault (renderAck s) = nextFault s := rfl

theorem nextFault_supplyRand (b : Byte) : nextFault (supplyRand b s) = nextFault s := rfl

end

theorem stepOp_of_fault {s : State} {b : Byte} {f : Fault} (h : step (supplyRand b s) = .fault f) :
    stepOp b s = (s, .faulted f) := by
  rw [stepOp, h]

/-- Settles O57: the fault due is the same after each of the operations, and a step that faults hands the state back. -/
theorem faultRepeatsUntilStateChanges : Obligations.FaultRepeatsUntilStateChanges := by
  intro s f h
  have hrepeats (t : State) (ht : nextFault t = nextFault s) : step t = .fault f :=
    step_eq_fault_iff.mpr (ht.trans (step_eq_fault_iff.mp h))
  exact ⟨fun b => stepOp_of_fault (hrepeats _ (nextFault_supplyRand s b)), hrepeats _ (nextFault_tickState s),
    fun k p => hrepeats _ (nextFault_setKey s k p), hrepeats _ (nextFault_renderAck s)⟩

/-! ## Ticks (R231, R232) -/

/-- Settles O53: each timer is decremented as a number. -/
theorem tickDecrementsTheTimers : Obligations.TickDecrementsTheTimers :=
  fun s => ⟨toNat_decrement s.dt, toNat_decrement s.st, rfl, tickBeep_iff s⟩

section

variable (font : FontTable) (n : Nat) (s : State)

theorem runOps_replicate_tick_succ : runOps font (List.replicate (n + 1) .tick) s =
    ((runOps font (List.replicate n .tick) (tickState s)).1,
      .ticked (tickBeep s) :: (runOps font (List.replicate n .tick) (tickState s)).2) := rfl

/-- `timer` is DT or ST: what a tick decrements, n ticks take down by n. -/
theorem toNat_runOps_replicate_tick {timer : State → Byte} (htick : ∀ s, timer (tickState s) = decrement (timer s)) :
    (timer (runOps font (List.replicate n .tick) s).1).toNat = (timer s).toNat - n := by
  induction n generalizing s with
  | zero => rfl
  | succ n ih => rw [runOps_replicate_tick_succ, ih, htick, toNat_decrement, Nat.sub_sub, Nat.add_comm]

/-- The first tick beeps where ST is 1; from any other ST a later tick is the one, if any. -/
theorem count_beep_runOps_replicate_tick :
    (runOps font (List.replicate n .tick) s).2.count (.ticked true) =
      if 0 < s.st.toNat ∧ s.st.toNat ≤ n then 1 else 0 := by
  induction n generalizing s with
  | zero => exact (if_neg (by omega)).symm
  | succ n ih =>
    have hbeep : (Reply.ticked (tickBeep s) == .ticked true) = true ↔ s.st.toNat = 1 := by
      rw [beq_iff_eq, Reply.ticked.injEq, tickBeep_iff]
    rw [runOps_replicate_tick_succ, List.count_cons, ih, tickState_st, toNat_decrement, if_congr hbeep rfl rfl]
    split_ifs <;> omega

end

/-- Settles O54, by induction over the ticks, for each timer and for the beeps. -/
theorem ticksRunOutWithOneBeep : Obligations.TicksRunOutWithOneBeep :=
  fun font n s => ⟨toNat_runOps_replicate_tick font n s tickState_dt, toNat_runOps_replicate_tick font n s tickState_st,
    count_beep_runOps_replicate_tick font n s⟩

/-! ## Keys and the acknowledgement (R236, R238) -/

theorem getElem_key_setKey (s : State) (k j : Fin 16) (p : Bool) :
    (setKey s k p).key[j.val] = if j = k then p else s.key[j.val] := by
  rw [setKey_key, Vector.getElem_set]
  exact if_congr (Fin.val_inj.trans eq_comm) rfl rfl

/-- Settles O56: each operation is one record update, and the key array changes at k alone. -/
theorem setKeyAndRenderAckTouchOneField : Obligations.SetKeyAndRenderAckTouchOneField :=
  fun s k p => ⟨fun j => getElem_key_setKey s k j p, rfl, rfl⟩

/-! ## load_rom (R263) -/

theorem loadRom_of_le {s : State} {bytes : List Byte} (h : bytes.length ≤ 0xE00) :
    loadRom s bytes = (s.setMem (Memory.writeBytes s.mem romBase bytes), .ok) := if_neg (Nat.not_lt.mpr h)

theorem loadRom_of_gt {s : State} {bytes : List Byte} (h : 0xE00 < bytes.length) :
    loadRom s bytes = (s, .romTooLarge) := if_pos h

/-- Settles O55: the payload is one sequence of writes from 0x200 up. -/
theorem loadRomCopiesOrRefuses : Obligations.LoadRomCopiesOrRefuses := by
  refine fun s bytes => ⟨fun h => ?_, loadRom_of_gt⟩
  rw [loadRom_of_le h]
  exact ⟨rfl, rfl, fun k hk => Memory.read_writeBytes_add s.mem romBase bytes hk,
    fun a ha => Memory.read_writeBytes_outside s.mem romBase bytes ha⟩

/-! ## Finished programs (R272) -/

/-- A jump to its own address writes the pc that stands there already. -/
theorem Finished.step_eq {s : State} (h : Finished s) :
    step s = .next (s.setResult ⟨false, .executed⟩).nextDraw := by
  obtain ⟨hpc, nnn, hd, htarget⟩ := h
  rw [step_of_decode_instr hpc hd, exec_jp, execJp, htarget]
  rfl

/-- `Finished` reads pc and memory alone. -/
theorem Finished.setResult_nextDraw {s : State} (h : Finished s) (r : StepResult) :
    Finished (s.setResult r).nextDraw := h

theorem Finished.safeRun {s : State} (h : Finished s) (n : Nat) : SafeRun n s := by
  induction n generalizing s with
  | zero => trivial
  | succ n ih => exact ⟨_, h.step_eq, ih (h.setResult_nextDraw _)⟩

/-- Settles O58: the step leaves a finished program, so every further step completes too. -/
theorem finishedProgramStaysFinished : Obligations.FinishedProgramStaysFinished :=
  fun _ h => ⟨⟨_, h.step_eq, h.setResult_nextDraw _, rfl⟩, h.safeRun⟩

end Sys2Proof.Machine
